-- ==== Sys2Proof/Word.lean ====
section
/-! DEFINITION. The fixed widths of the block: limb, key, stored field element (00_scope.md R7, R9; 10_state.md R34, R36). -/

namespace Sys2Proof

/-- A limb, and also a word of a packet: 32 bits (R7, R80). -/
abbrev Word := BitVec 32

/-- A 64-bit value: a slot key, a finishing key, a running sum or a 64-bit input word (R36, R186). -/
abbrev Key := BitVec 64

/-- A stored FieldElement89 (R34): three limbs of which the top one uses only its low 25 bits, held as
the one 89-bit integer R34 allows (log 11). That it is below `2^89 − 1` is an invariant (R35), not the type. -/
abbrev FieldElement := BitVec 89

/-- The 64 slot keys of a filter buffer, or the key array of a one-shot vector hash (R36, R180, log 10). -/
abbrev Keys := Vector Key 64

/-- The 64 lanes of 32 bits of a one-shot vector hash (R180). -/
abbrev Lanes := Vector Word 64

end Sys2Proof
end

