-- ==== Sys2Proof/Machine/Operands.lean ====
section
/-! DEFINITION. Limb vectors and operand assembly: `val`, `limbs_n` (00_scope.md R11), how the payload is cut into
operands (30_encoding.md R85), how a result is placed (R90), and the bytes of a serialised word (20_memory.md R65).
These are all the operand forms the block has: there is no addressing mode but the filter's cursor (R61), which is in Ops. -/

namespace Sys2Proof

/-- `val(V) = Σ_i v_i · 2^(32·i)`, least-significant limb first (R11). -/
def val : List Word → Nat
  | [] => 0
  | w :: ws => w.toNat + 2 ^ 32 * val ws

/-- `limbs_n(v)`: the n-limb list whose value is `v`, for `v < 2^(32·n)` (R11). -/
def limbs : Nat → Nat → List Word
  | 0, _ => []
  | n + 1, v => BitVec.ofNat 32 v :: limbs n (v / 2 ^ 32)

/-- The `w`-bit operand that starts at payload word `start` (R85): `w / 32` consecutive words, least-significant first. -/
def operandAt (w : Nat) (ws : List Word) (start : Nat) : BitVec w :=
  BitVec.ofNat w (val ((ws.drop start).take (w / 32)))

/-- An array operand of 64 keys, element 0 first, two words each (R85). -/
def keysAt (ws : List Word) (start : Nat) : Keys :=
  Vector.ofFn fun i : Fin 64 => operandAt 64 ws (start + 2 * i.val)

/-- An array operand of 64 lanes, element 0 first, one word each (R85). -/
def lanesAt (ws : List Word) (start : Nat) : Lanes :=
  Vector.ofFn fun i : Fin 64 => operandAt 32 ws (start + i.val)

/-- The payload words of one operand (R85). -/
def operandWords {w : Nat} (v : BitVec w) : List Word := limbs (w / 32) v.toNat

/-- The payload words of a key array (R85). -/
def keysWords (k : Keys) : List Word := k.toList.flatMap operandWords

/-- The payload words of a lane array (R85). -/
def lanesWords (x : Lanes) : List Word := x.toList.flatMap operandWords

/-- The bytes of a word where a platform serialises a packet: byte 0 is the least-significant one (R65).
No rule of the model depends on it (log 12). -/
def wordBytes (w : Word) : List (BitVec 8) :=
  [w.extractLsb' 0 8, w.extractLsb' 8 8, w.extractLsb' 16 8, w.extractLsb' 24 8]

/-- The bytes of a serialised packet, word after word (R65). -/
def wordsBytes (ws : List Word) : List (BitVec 8) := ws.flatMap wordBytes

end Sys2Proof
end

