-- ==== Sys2Proof/Syntax.lean ====
section
/-! DEFINITION. The command set "HSH command set 1": one constructor per row of the command table (30_encoding.md R86),
and the two packets of the command port (R80, R89). -/

namespace Sys2Proof

/-- A command packet (R80): a header word and a payload whose length the port knows. A packet of no words cannot
be expressed (R88). -/
structure Packet where
  header : Word
  payload : List Word
  deriving DecidableEq, Repr

/-- A response packet (R89): a status word and, on success, the result limbs. -/
structure Response where
  status : Word
  result : List Word
  deriving DecidableEq, Repr

/-- What went wrong in a `DomainError`, the block's one exception (60_exceptions.md R260, R261), in check order. -/
inductive DomainError where
  | illegal
  | length
  | width
  | ctx
  | invalid
  | domain
  | full
  deriving DecidableEq, Repr

/-- The 30 commands. `ctx` is the header's CTX field, `l` its L field (R81), both as the unsigned number they stand for (log 16);
then the payload operands in the order of R86, each with its limbs' width. -/
inductive Instr where
  | status
  | mul3x1 (a : BitVec 96) (x : BitVec 32)
  | mul3x1a3 (a : BitVec 96) (x : BitVec 32) (addend : BitVec 96)
  | mul3x2 (a : BitVec 96) (x : BitVec 64)
  | muladd (a b : BitVec 96) (x : BitVec 64)
  | mul3x3 (a x : BitVec 96)
  | red6a3 (wide : BitVec 192) (extra : BitVec 96)
  | mod5 (l : Nat) (v : BitVec 160)
  | mmp31 (l : Nat) (a b x : BitVec 32)
  | mmp61 (l : Nat) (a b x : BitVec 64)
  | mmp89 (l : Nat) (a b : BitVec 96) (x : BitVec 64)
  | mmp31x3 (l : Nat) (a0 b0 a1 b1 a2 b2 : BitVec 32) (x : BitVec 64)
  | ms32 (l : Nat) (a x : BitVec 32)
  | ms64 (l : Nat) (a x : BitVec 64)
  | ms128 (l : Nat) (a x : BitVec 128)
  | mss32 (l : Nat) (a b : BitVec 64) (x : BitVec 32)
  | mss64 (l : Nat) (a b : BitVec 128) (x : BitVec 64)
  | mss128 (l : Nat) (a b : BitVec 256) (x : BitVec 128)
  | vdot (l : Nat) (a : Keys) (b : Key) (x : Lanes)
  | vdotp (l : Nat) (a : Keys) (b : Key) (x : Lanes)
  | pfNew (ctx : Nat) (k : Keys) (kb : Key)
  | pfWrite (ctx : Nat) (x : BitVec 64)
  | pfIsdone (ctx : Nat)
  | pfFinish (ctx l : Nat)
  | phNew (ctx : Nat) (a b c : BitVec 96)
  | phWrite (ctx : Nat) (x : BitVec 64)
  | phFinish (ctx l : Nat)
  | ppNew (ctx : Nat) (a b c : BitVec 96) (k0 : Keys) (kb0 : Key) (k1 : Keys) (kb1 : Key)
  | ppWrite (ctx : Nat) (x : BitVec 64)
  | ppFinish (ctx l : Nat)
  deriving DecidableEq, Repr

end Sys2Proof
end

