-- ==== Sys2Proof/Decode.lean ====
section
/-! DEFINITION. The command table (30_encoding.md R86), the decoder (R88), total on every packet, and the encoder;
then the two functions by which the host hands over a table word. -/

namespace Sys2Proof

/-- The L field of a header, bits 15:8 (R81). -/
def lField (h : Word) : Nat := (h.extractLsb' 8 8).toNat

/-- The CTX field of a header, bits 19:16 (R81). -/
def ctxField (h : Word) : Nat := (h.extractLsb' 16 4).toNat

/-- Mask of format H: OPC only; L, CTX and RSV must be zero (R86). -/
def maskH : Word := 0xFFFFFFFF#32

/-- Mask of format HL: OPC and L (R86). -/
def maskHL : Word := 0xFFFF00FF#32

/-- Mask of format HC: OPC and CTX (R86). -/
def maskHC : Word := 0xFFF0FFFF#32

/-- Mask of format HLC: OPC, L and CTX (R86). -/
def maskHLC : Word := 0xFFF000FF#32

/-- A row of the command table (R86). `assemble` takes L, CTX and the payload and cuts the operands (R85). -/
structure Row where
  mnemonic : String
  mask : Word
  pattern : Word
  payloadWords : Nat
  resultLimbs : Nat
  assemble : Nat → Nat → List Word → Instr

/-- Rows of units 0 and 1: system and limb arithmetic (R86). -/
def limbRows : List Row := [
  ⟨"STATUS", maskH, 0x00#32, 0, 1, fun _ _ _ => .status⟩,
  ⟨"MUL3X1", maskH, 0x10#32, 4, 4, fun _ _ ws => .mul3x1 (operandAt 96 ws 0) (operandAt 32 ws 3)⟩,
  ⟨"MUL3X1A3", maskH, 0x11#32, 7, 4,
    fun _ _ ws => .mul3x1a3 (operandAt 96 ws 0) (operandAt 32 ws 3) (operandAt 96 ws 4)⟩,
  ⟨"MUL3X2", maskH, 0x12#32, 5, 5, fun _ _ ws => .mul3x2 (operandAt 96 ws 0) (operandAt 64 ws 3)⟩,
  ⟨"MULADD", maskH, 0x13#32, 8, 5,
    fun _ _ ws => .muladd (operandAt 96 ws 0) (operandAt 96 ws 3) (operandAt 64 ws 6)⟩,
  ⟨"MUL3X3", maskH, 0x14#32, 6, 6, fun _ _ ws => .mul3x3 (operandAt 96 ws 0) (operandAt 96 ws 3)⟩,
  ⟨"RED6A3", maskH, 0x15#32, 9, 3, fun _ _ ws => .red6a3 (operandAt 192 ws 0) (operandAt 96 ws 6)⟩,
  ⟨"MOD5", maskHL, 0x16#32, 5, 3, fun l _ ws => .mod5 l (operandAt 160 ws 0)⟩]

/-- Rows of units 2 and 3: multiply-mod-prime and multiply-shift (R86). -/
def hashRows : List Row := [
  ⟨"MMP31", maskHL, 0x20#32, 3, 1,
    fun l _ ws => .mmp31 l (operandAt 32 ws 0) (operandAt 32 ws 1) (operandAt 32 ws 2)⟩,
  ⟨"MMP61", maskHL, 0x21#32, 6, 2,
    fun l _ ws => .mmp61 l (operandAt 64 ws 0) (operandAt 64 ws 2) (operandAt 64 ws 4)⟩,
  ⟨"MMP89", maskHL, 0x22#32, 8, 3,
    fun l _ ws => .mmp89 l (operandAt 96 ws 0) (operandAt 96 ws 3) (operandAt 64 ws 6)⟩,
  ⟨"MMP31X3", maskHL, 0x23#32, 8, 1,
    fun l _ ws => .mmp31x3 l (operandAt 32 ws 0) (operandAt 32 ws 1) (operandAt 32 ws 2) (operandAt 32 ws 3)
      (operandAt 32 ws 4) (operandAt 32 ws 5) (operandAt 64 ws 6)⟩,
  ⟨"MS32", maskHL, 0x30#32, 2, 1, fun l _ ws => .ms32 l (operandAt 32 ws 0) (operandAt 32 ws 1)⟩,
  ⟨"MS64", maskHL, 0x31#32, 4, 2, fun l _ ws => .ms64 l (operandAt 64 ws 0) (operandAt 64 ws 2)⟩,
  ⟨"MS128", maskHL, 0x32#32, 8, 4, fun l _ ws => .ms128 l (operandAt 128 ws 0) (operandAt 128 ws 4)⟩,
  ⟨"MSS32", maskHL, 0x34#32, 5, 1,
    fun l _ ws => .mss32 l (operandAt 64 ws 0) (operandAt 64 ws 2) (operandAt 32 ws 4)⟩,
  ⟨"MSS64", maskHL, 0x35#32, 10, 2,
    fun l _ ws => .mss64 l (operandAt 128 ws 0) (operandAt 128 ws 4) (operandAt 64 ws 8)⟩,
  ⟨"MSS128", maskHL, 0x36#32, 20, 4,
    fun l _ ws => .mss128 l (operandAt 256 ws 0) (operandAt 256 ws 8) (operandAt 128 ws 16)⟩]

/-- Rows of units 4, 5 and 6: vector block and pair filter, polynomial hasher, pipeline (R86). -/
def streamRows : List Row := [
  ⟨"VDOT", maskHL, 0x40#32, 194, 1, fun l _ ws => .vdot l (keysAt ws 0) (operandAt 64 ws 128) (lanesAt ws 130)⟩,
  ⟨"VDOTP", maskHL, 0x41#32, 194, 1, fun l _ ws => .vdotp l (keysAt ws 0) (operandAt 64 ws 128) (lanesAt ws 130)⟩,
  ⟨"PF.NEW", maskHC, 0x44#32, 130, 0, fun _ c ws => .pfNew c (keysAt ws 0) (operandAt 64 ws 128)⟩,
  ⟨"PF.WRITE", maskHC, 0x45#32, 2, 0, fun _ c ws => .pfWrite c (operandAt 64 ws 0)⟩,
  ⟨"PF.ISDONE", maskHC, 0x46#32, 0, 1, fun _ c _ => .pfIsdone c⟩,
  ⟨"PF.FINISH", maskHLC, 0x47#32, 0, 1, fun l c _ => .pfFinish c l⟩,
  ⟨"PH.NEW", maskHC, 0x50#32, 9, 0,
    fun _ c ws => .phNew c (operandAt 96 ws 0) (operandAt 96 ws 3) (operandAt 96 ws 6)⟩,
  ⟨"PH.WRITE", maskHC, 0x51#32, 2, 0, fun _ c ws => .phWrite c (operandAt 64 ws 0)⟩,
  ⟨"PH.FINISH", maskHLC, 0x52#32, 0, 3, fun l c _ => .phFinish c l⟩,
  ⟨"PP.NEW", maskHC, 0x60#32, 269, 0,
    fun _ c ws => .ppNew c (operandAt 96 ws 0) (operandAt 96 ws 3) (operandAt 96 ws 6)
      (keysAt ws 9) (operandAt 64 ws 137) (keysAt ws 139) (operandAt 64 ws 267)⟩,
  ⟨"PP.WRITE", maskHC, 0x61#32, 2, 0, fun _ c ws => .ppWrite c (operandAt 64 ws 0)⟩,
  ⟨"PP.FINISH", maskHLC, 0x62#32, 0, 3, fun l c _ => .ppFinish c l⟩]

/-- The command table: 30 rows, complete (R86). -/
def commandTable : List Row := limbRows ++ hashRows ++ streamRows

/-- `(H & mask) = match` (R86). -/
def Row.selects (r : Row) (h : Word) : Bool := h &&& r.mask == r.pattern

/-- The row a header selects (R88 step 1). -/
def findRow (h : Word) : Option Row := commandTable.find? (·.selects h)

/-- The decoding procedure (R88): E_ILLEGAL when no row matches, E_LENGTH when the payload has not the row's length,
else the command with its operands cut. -/
def decode (p : Packet) : Except DomainError Instr :=
  match findRow p.header with
  | none => .error .illegal
  | some r =>
    if p.payload.length = r.payloadWords then .ok (r.assemble (lField p.header) (ctxField p.header) p.payload)
    else .error .length

/-- A header word from its fields, RSV zero (R81, R87). -/
def headerWord (opc l ctx : Nat) : Word :=
  0#12 ++ BitVec.ofNat 4 ctx ++ BitVec.ofNat 8 l ++ BitVec.ofNat 8 opc

/-- The packet of a command (R81, R85, R86). -/
def encode : Instr → Packet
  | .status => ⟨headerWord 0x00 0 0, []⟩
  | .mul3x1 a x => ⟨headerWord 0x10 0 0, operandWords a ++ operandWords x⟩
  | .mul3x1a3 a x d => ⟨headerWord 0x11 0 0, operandWords a ++ operandWords x ++ operandWords d⟩
  | .mul3x2 a x => ⟨headerWord 0x12 0 0, operandWords a ++ operandWords x⟩
  | .muladd a b x => ⟨headerWord 0x13 0 0, operandWords a ++ operandWords b ++ operandWords x⟩
  | .mul3x3 a x => ⟨headerWord 0x14 0 0, operandWords a ++ operandWords x⟩
  | .red6a3 w e => ⟨headerWord 0x15 0 0, operandWords w ++ operandWords e⟩
  | .mod5 l v => ⟨headerWord 0x16 l 0, operandWords v⟩
  | .mmp31 l a b x => ⟨headerWord 0x20 l 0, operandWords a ++ operandWords b ++ operandWords x⟩
  | .mmp61 l a b x => ⟨headerWord 0x21 l 0, operandWords a ++ operandWords b ++ operandWords x⟩
  | .mmp89 l a b x => ⟨headerWord 0x22 l 0, operandWords a ++ operandWords b ++ operandWords x⟩
  | .mmp31x3 l a0 b0 a1 b1 a2 b2 x => ⟨headerWord 0x23 l 0,
      operandWords a0 ++ operandWords b0 ++ operandWords a1 ++ operandWords b1 ++ operandWords a2 ++
        operandWords b2 ++ operandWords x⟩
  | .ms32 l a x => ⟨headerWord 0x30 l 0, operandWords a ++ operandWords x⟩
  | .ms64 l a x => ⟨headerWord 0x31 l 0, operandWords a ++ operandWords x⟩
  | .ms128 l a x => ⟨headerWord 0x32 l 0, operandWords a ++ operandWords x⟩
  | .mss32 l a b x => ⟨headerWord 0x34 l 0, operandWords a ++ operandWords b ++ operandWords x⟩
  | .mss64 l a b x => ⟨headerWord 0x35 l 0, operandWords a ++ operandWords b ++ operandWords x⟩
  | .mss128 l a b x => ⟨headerWord 0x36 l 0, operandWords a ++ operandWords b ++ operandWords x⟩
  | .vdot l a b x => ⟨headerWord 0x40 l 0, keysWords a ++ operandWords b ++ lanesWords x⟩
  | .vdotp l a b x => ⟨headerWord 0x41 l 0, keysWords a ++ operandWords b ++ lanesWords x⟩
  | .pfNew c k kb => ⟨headerWord 0x44 0 c, keysWords k ++ operandWords kb⟩
  | .pfWrite c x => ⟨headerWord 0x45 0 c, operandWords x⟩
  | .pfIsdone c => ⟨headerWord 0x46 0 c, []⟩
  | .pfFinish c l => ⟨headerWord 0x47 l c, []⟩
  | .phNew ctx a b c => ⟨headerWord 0x50 0 ctx, operandWords a ++ operandWords b ++ operandWords c⟩
  | .phWrite c x => ⟨headerWord 0x51 0 c, operandWords x⟩
  | .phFinish c l => ⟨headerWord 0x52 l c, []⟩
  | .ppNew ctx a b c k0 kb0 k1 kb1 => ⟨headerWord 0x60 0 ctx,
      operandWords a ++ operandWords b ++ operandWords c ++ keysWords k0 ++ operandWords kb0 ++
        keysWords k1 ++ operandWords kb1⟩
  | .ppWrite c x => ⟨headerWord 0x61 0 c, operandWords x⟩
  | .ppFinish c l => ⟨headerWord 0x62 l c, []⟩

/-- How many payload words the row of a header takes; 0 where no row matches (R88). -/
def payloadWordsOf (h : Word) : Nat := ((findRow h).map (·.payloadWords)).getD 0

/-- The packet of a table word `w` of `nbits` bits: its 32-bit words, the first being the header, and then words of
zeros up to the row's length (log 9). -/
def tablePacket (nbits w : Nat) : Packet :=
  let header : Word := BitVec.ofNat 32 w
  let given := limbs ((nbits - 1) / 32) (w / 2 ^ 32)
  ⟨header, given ++ List.replicate (payloadWordsOf header - given.length) 0⟩

/-- The command the decoder reads from a table word; none where it refuses. -/
def decodeTableWord (nbits w : Nat) : Option Instr :=
  match decode (tablePacket nbits w) with
  | .ok i => some i
  | .error _ => none

end Sys2Proof
end

