-- ==== Sys2Proof/Config.lean ====
section
/-! DEFINITION. The constants of the block (00_scope.md R6) and the three parameters the spec leaves open (R8). -/

namespace Sys2Proof.Config

/-- The prime `2^31 − 1` (R6). -/
def p31 : Nat := 2 ^ 31 - 1

/-- The prime `2^61 − 1` (R6). -/
def p61 : Nat := 2 ^ 61 - 1

/-- The prime `2^89 − 1` (R6). -/
def p89 : Nat := 2 ^ 89 - 1

/-- The capacity of a pair filter in writes, `D / 2` with `D = 64` (R6, R7). -/
def capacity : Nat := 32

/-- The default output width of the assembler syntax; the hardware has none (R6, R99). -/
def defaultWidth : Nat := 20

/-- `N_PH` of `State.reset`. DESIGN CHOICE (log 1), unsafe: R8 leaves it open, 1 to 16; every other definition
reads the number of contexts off the state. -/
def nPH : Nat := 4

/-- `N_PF` of `State.reset`. DESIGN CHOICE (log 1), unsafe. -/
def nPF : Nat := 4

/-- `N_PP` of `State.reset`. DESIGN CHOICE (log 1), unsafe. -/
def nPP : Nat := 4

end Sys2Proof.Config
end

