-- ==== Sys2Proof/Machine/State.lean ====
section
/-! DEFINITION. The complete state of the block (10_state.md R30) as plain data, its reset, and the reasons a step can stop. -/

namespace Sys2Proof.Machine

/-- Why the machine stops. Closed: these are all. -/
inductive Fault where
  /-- A filter buffer's key store was read at a slot outside 0 to 63. Raised by the write step of the pair filter
  (PF.WRITE, PP.WRITE) only. R61 says no such slot and no such access exists; no state that meets the invariants of
  R37 and R38 reaches it. Safe (log 6). -/
  | keySlotOutOfRange
  deriving DecidableEq, Repr

/-- Why a step has no meaning. Closed: these are all. -/
inductive Refusal where
  /-- An instruction the model has no meaning for yet, by its mnemonic. No arm of `exec` answers it. Safe. -/
  | notModelled (mnemonic : String)
  deriving DecidableEq, Repr

/-- The STATUS register (R39): bit 0 and bits 7:4. Its other bits read as zero and have no home (log 8). -/
structure Status where
  err : Bool
  errCode : BitVec 4
  deriving DecidableEq, Repr

/-- A polynomial-hasher context `PH[i]` (R34). -/
structure PhContext where
  valid : Bool
  a : FieldElement
  b : FieldElement
  c : FieldElement
  state : FieldElement
  deriving DecidableEq, Repr

/-- A filter buffer (R36, R60): 64 slot keys, the finishing key, the running sum and the fill cursor. -/
structure FilterBuffer where
  k : Keys
  kb : Key
  sum : BitVec 64
  cur : Nat
  deriving DecidableEq, Repr

/-- A pair-filter context `PF[j]` (R36). -/
structure PfContext where
  valid : Bool
  buf : FilterBuffer
  deriving DecidableEq, Repr

/-- A preprocessing-pipeline context `PP[k]` (R38). -/
structure PpContext where
  valid : Bool
  a : FieldElement
  b : FieldElement
  c : FieldElement
  state : FieldElement
  f0 : FilterBuffer
  f1 : FilterBuffer
  deriving DecidableEq, Repr

/-- What the outside can present at the block (R80, R290): a command packet, or a reset. -/
inductive PortEvent where
  | command (p : Packet)
  | reset
  deriving DecidableEq, Repr

/-- The block's state (R30): STATUS and the three context files, whose lengths are `N_PH`, `N_PF`, `N_PP` (R8, log 1).
`port` and `responses` are the model's own (log 4): the inputs not yet taken and the responses given, both oldest first. -/
structure State where
  status : Status
  ph : List PhContext
  pf : List PfContext
  pp : List PpContext
  port : List PortEvent
  responses : List Response
  deriving DecidableEq, Repr

/-- STATUS after reset: 0 (R47, R291). -/
def Status.cleared : Status := ⟨false, 0⟩

/-- A `PH[i]` after reset: VALID = 0, the rest unspecified and here zero. DESIGN CHOICE (log 2): R291 allows any contents. -/
def PhContext.unconfigured : PhContext := ⟨false, 0, 0, 0, 0⟩

/-- A filter buffer after reset: unspecified and here zero. DESIGN CHOICE (log 2). -/
def FilterBuffer.unconfigured : FilterBuffer := ⟨Vector.replicate 64 0, 0, 0, 0⟩

/-- A `PF[j]` after reset: VALID = 0, the rest here zero. DESIGN CHOICE (log 2). -/
def PfContext.unconfigured : PfContext := ⟨false, FilterBuffer.unconfigured⟩

/-- A `PP[k]` after reset: VALID = 0, the rest here zero. DESIGN CHOICE (log 2). -/
def PpContext.unconfigured : PpContext :=
  ⟨false, 0, 0, 0, 0, FilterBuffer.unconfigured, FilterBuffer.unconfigured⟩

/-- The block right after reset with the given parameters (R47, R291). -/
def State.resetWith (nPH nPF nPP : Nat) : State where
  status := Status.cleared
  ph := List.replicate nPH PhContext.unconfigured
  pf := List.replicate nPF PfContext.unconfigured
  pp := List.replicate nPP PpContext.unconfigured
  port := []
  responses := []

/-- The block right after reset (R291), at the parameters of Config (log 1). -/
def State.reset : State := State.resetWith Config.nPH Config.nPF Config.nPP

end Sys2Proof.Machine
end

