-- ==== Sys2Proof/Machine/Flags.lean ====
section
/-! DEFINITION. The block's one flag, STATUS.ERR, with its code field: how STATUS reads (10_state.md R39) and what a failing
command writes to it (60_exceptions.md R261, R270). There is no other flag or condition code (R40): no carry, zero, overflow
or sign flag is visible, and the carries and the borrow of the limb routines live inside one command. -/

namespace Sys2Proof.Machine

/-- The numbering of the error codes (R261); 8 to 15 are never produced. -/
def errorCode : DomainError → BitVec 4
  | .illegal => 1
  | .length => 2
  | .width => 3
  | .ctx => 4
  | .invalid => 5
  | .domain => 6
  | .full => 7

/-- STATUS as the 32-bit register it is read as (R39): ERR in bit 0, ERRCODE in bits 7:4, zero elsewhere. -/
def Status.word (st : Status) : Word := 0#24 ++ st.errCode ++ 0#3 ++ BitVec.ofBool st.err

/-- What `DomainError(e)` writes to STATUS: ERR <- 1 and ERRCODE <- e, whatever stood there (R270, R272). -/
def Status.failed (e : DomainError) : Status := ⟨true, errorCode e⟩

/-- The status word of a failing command's response: bits 3:0 the code, bits 31:4 zero (R89). -/
def failureWord (e : DomainError) : Word := (errorCode e).setWidth 32

end Sys2Proof.Machine
end

