-- ==== Sys2Proof/Machine/Ops.lean ====
section
/-! DEFINITION. The named operations every meaning is built from: responding (30_encoding.md R89, R90), taking the one
exception (60_exceptions.md R270), reset (70_reset_and_hazards.md R291), the header checks in their order (R264), the context
files (10_state.md R33), the key store (20_memory.md R61) and the filter-buffer procedures (43_vector_block.md R187, R189, R191). -/

namespace Sys2Proof.Machine

/-- What a command's meaning answers. -/
abbrev Result := Host.Outcome State Fault Refusal

/-- The state after giving one response. -/
def State.respond (s : State) (r : Response) : State := { s with responses := s.responses ++ [r] }

/-- The state with context `PH[i]` replaced. -/
def State.setPh (s : State) (i : Nat) (c : PhContext) : State := { s with ph := s.ph.set i c }

/-- The state with context `PF[j]` replaced. -/
def State.setPf (s : State) (j : Nat) (c : PfContext) : State := { s with pf := s.pf.set j c }

/-- The state with context `PP[k]` replaced. -/
def State.setPp (s : State) (k : Nat) (c : PpContext) : State := { s with pp := s.pp.set k c }

/-- The state with STATUS replaced. -/
def State.setStatus (s : State) (st : Status) : State := { s with status := st }

/-- Exception entry (R270): STATUS.ERR <- 1, STATUS.ERRCODE <- e, the one-word response `[e]`, and nothing else. Nothing is
saved and control goes nowhere: the block is at once ready for the next command. There is no return from it (R272). -/
def raise (e : DomainError) (s : State) : Result :=
  .next ((s.setStatus (Status.failed e)).respond ⟨failureWord e, []⟩)

/-- A successful response: status word 0 and the result limbs (R89). -/
def reply (limbVector : List Word) (s : State) : Result := .next (s.respond ⟨0, limbVector⟩)

/-- A successful response whose result is the value `v` in `n` limbs (R90). -/
def replyValue (n v : Nat) (s : State) : Result := reply (limbs n v) s

/-- Reset (R291): STATUS <- 0 and VALID <- 0 in every context; the other fields, unspecified then, are put to the values
`State.reset` has (log 3). What the outside has yet to present and what was answered before are not the block's state. -/
def State.applyReset (s : State) : State :=
  { s with
    status := Status.cleared
    ph := s.ph.map fun _ => PhContext.unconfigured
    pf := s.pf.map fun _ => PfContext.unconfigured
    pp := s.pp.map fun _ => PpContext.unconfigured }

/-- Check 3 of R264: E_WIDTH when L is 0 or above the command's maximum (R265). -/
def checkWidth (maximum l : Nat) (s : State) (go : Result) : Result :=
  if l = 0 ∨ maximum < l then raise .width s else go

/-- Check 6 of R264: E_DOMAIN when an operand is outside its domain (R268). -/
def checkDomain (inDomain : Bool) (s : State) (go : Result) : Result :=
  if inDomain then go else raise .domain s

/-- Check 4 of R264 for a context file: E_CTX when CTX is at or above the file's size (R266). -/
def withContext {γ : Type} (file : List γ) (ctx : Nat) (s : State) (go : γ → Result) : Result :=
  match file[ctx]? with
  | none => raise .ctx s
  | some c => go c

/-- Check 5 of R264: E_INVALID when the context has VALID = 0 (R267). -/
def checkValid (valid : Bool) (s : State) (go : Result) : Result :=
  if valid then go else raise .invalid s

/-- `val(v) < P89` for a 3-limb operand (30_encoding.md R91). -/
def isFieldElement (v : BitVec 96) : Bool := decide (v.toNat < Config.p89)

/-- A checked 3-limb operand as it is stored (R34). -/
def storeElement (v : BitVec 96) : FieldElement := v.setWidth 89

/-- `MemRead((F, s), 8)` (R14, R61): the key at slot `s`; none at a slot that does not exist. -/
def keyRead (f : FilterBuffer) (s : Nat) : Option Key := f.k[s]?

/-- The filter buffer NEW makes: all 64 slots and KB written, SUM <- 0, CUR <- 0 (R183, R231). -/
def fbNew (k : Keys) (kb : Key) : FilterBuffer := ⟨k, kb, 0, 0⟩

/-- The even lane of a written 64-bit word: its low half (R187). -/
def evenLane (x : BitVec 64) : Key := (x.extractLsb' 0 32).setWidth 64

/-- The odd lane of a written 64-bit word: its high half (R187). -/
def oddLane (x : BitVec 64) : Key := (x.extractLsb' 32 32).setWidth 64

/-- One product of the paired hash, with the crossing of R182 and R187: the even key meets the odd lane and the odd key the
even lane; the sums and the product wrap modulo `2^64`. -/
def pairProduct (keyEven keyOdd laneEven laneOdd : Key) : Key := (keyEven + laneOdd) * (keyOdd + laneEven)

/-- `fb_write(F, x)` (R187); none when a slot it reads does not exist, that is when CUR is 32 or more. -/
def fbWrite (f : FilterBuffer) (x : BitVec 64) : Option FilterBuffer :=
  match keyRead f (2 * f.cur), keyRead f (2 * f.cur + 1) with
  | some kEven, some kOdd =>
    some { f with sum := f.sum + pairProduct kEven kOdd (evenLane x) (oddLane x), cur := f.cur + 1 }
  | _, _ => none

/-- `fb_done(F)` (R189). -/
def fbDone (f : FilterBuffer) : Bool := f.cur == Config.capacity

/-- The digest of `fb_finish(F, l)` (R191): the running sum folded with KB, the top `l` bits kept. -/
def fbDigest (f : FilterBuffer) (l : Nat) : BitVec 64 := (f.kb + f.sum) >>> (64 - l)

/-- The buffer `fb_finish` leaves (R191): SUM <- 0, CUR <- 0, the keys untouched. -/
def fbEmptied (f : FilterBuffer) : FilterBuffer := { f with sum := 0, cur := 0 }

end Sys2Proof.Machine
end

