-- ==== Sys2Proof/Machine/LimbArith.lean ====
section
/-! DEFINITION. Unit 1: the limb routines and the Mersenne reduction (40_limb_arithmetic.md), written limb by limb as the spec's
pseudocode, and the commands MUL3X1, MUL3X1A3, MUL3X2, MULADD, MUL3X3, RED6A3, MOD5. -/

namespace Sys2Proof.Machine

/-- `mul3x1_add3(a, x, addend)` (R111), one limb a step: `t` is the 64-bit partial sum, its low half a result limb and its high
half the carry into the next; the last carry is the top limb. -/
def mulRow : List Word → Word → List Word → Word → List Word
  | a :: as, x, d :: ds, carry =>
    let t := a.toNat * x.toNat + d.toNat + carry.toNat
    BitVec.ofNat 32 t :: mulRow as x ds (BitVec.ofNat 32 (t / 2 ^ 32))
  | _, _, _, carry => [carry]

/-- `mul3x1_add3(a, x, addend)` (R111). -/
def mul3x1Add3 (a : List Word) (x : Word) (addend : List Word) : List Word := mulRow a x addend 0

/-- `mul3xn_add3(a, x, addend)` (R114): row by row over the limbs of `x`, lowest first; a row's lowest limb is a result limb and
its upper three are the next row's addend. -/
def mul3xnAdd3 (a : List Word) : List Word → List Word → List Word
  | [], acc => acc
  | x :: xs, acc =>
    let row := mul3x1Add3 a x acc
    row.take 1 ++ mul3xnAdd3 a xs (row.drop 1)

/-- The limbs of `P89`: `[0xFFFFFFFF, 0xFFFFFFFF, 0x01FFFFFF]` (R118). -/
def p89Limbs : List Word := [0xFFFFFFFF#32, 0xFFFFFFFF#32, 0x01FFFFFF#32]

/-- The limb-wise subtraction of `cond_sub_p` (R118): the difference limbs and the last borrow. -/
def subLimbs : List Word → List Word → Int → List Word × Int
  | v :: vs, p :: ps, borrow =>
    let d : Int := v.toNat - p.toNat - borrow
    let rest := subLimbs vs ps (if d < 0 then 1 else 0)
    (BitVec.ofInt 32 d :: rest.1, rest.2)
  | _, _, borrow => ([], borrow)

/-- `cond_sub_p(v)` (R118): one subtraction of `P89`, undone when it borrows. -/
def condSubP (v : List Word) : List Word :=
  let t := subLimbs v p89Limbs 0
  if t.2 = 1 then v else t.1

/-- The three-term limb addition of `reduce6_add3` (R119), limbs modulo `2^32`, the carry passed on. -/
def addLimbs : List Word → List Word → List Word → Nat → List Word
  | c :: cs, d :: ds, e :: es, carry =>
    let t := c.toNat + d.toNat + e.toNat + carry
    BitVec.ofNat 32 t :: addLimbs cs ds es (t / 2 ^ 32)
  | _, _, _, _ => []

/-- The low part of the split at bit 89 (R119): `val = val(wide) mod 2^89`. -/
def lowPart (wide : List Word) : List Word :=
  [wide.getD 0 0, wide.getD 1 0, wide.getD 2 0 &&& 0x01FFFFFF#32]

/-- The high part of the split at bit 89 (R119): the top 7 bits of a limb feed into the next one; the limb above the sixth is 0. -/
def highPart (wide : List Word) : List Word :=
  [2, 3, 4].map fun i => (wide.getD i 0 >>> 25) ||| (wide.getD (i + 1) 0 <<< 7)

/-- `reduce6_add3(wide, extra)` (R119): low part, high part and `extra` added, then exactly two conditional subtractions. -/
def reduce6Add3 (wide extra : List Word) : List Word :=
  condSubP (condSubP (addLimbs (lowPart wide) (highPart wide) extra 0))

/-- Three zero limbs. -/
def zero3 : List Word := [0, 0, 0]

/-- MUL3X1 (R112). -/
def execMul3x1 (a : BitVec 96) (x : BitVec 32) (s : State) : Result :=
  reply (mul3x1Add3 (operandWords a) x zero3) s

/-- MUL3X1A3 (R113). -/
def execMul3x1a3 (a : BitVec 96) (x : BitVec 32) (addend : BitVec 96) (s : State) : Result :=
  reply (mul3x1Add3 (operandWords a) x (operandWords addend)) s

/-- MUL3X2 (R115). -/
def execMul3x2 (a : BitVec 96) (x : BitVec 64) (s : State) : Result :=
  reply (mul3xnAdd3 (operandWords a) (operandWords x) zero3) s

/-- MULADD (R116): `a` the multiplicand, `b` the addend, `x` the multiplier. -/
def execMuladd (a b : BitVec 96) (x : BitVec 64) (s : State) : Result :=
  reply (mul3xnAdd3 (operandWords a) (operandWords x) (operandWords b)) s

/-- MUL3X3 (R117). -/
def execMul3x3 (a x : BitVec 96) (s : State) : Result :=
  reply (mul3xnAdd3 (operandWords a) (operandWords x) zero3) s

/-- The domain of RED6A3: `val(wide) < 2^178` and `val(extra) < 2^89` (R120). -/
def reduceDomain (wide : BitVec 192) (extra : BitVec 96) : Bool :=
  decide (wide.toNat < 2 ^ 178) && decide (extra.toNat < 2 ^ 89)

/-- RED6A3 (R120). -/
def execRed6a3 (wide : BitVec 192) (extra : BitVec 96) (s : State) : Result :=
  checkDomain (reduceDomain wide extra) s (reply (reduce6Add3 (operandWords wide) (operandWords extra)) s)

/-- MOD5 (R122): the reduction of the 5-limb value with a zero sixth limb, masked to L bits. -/
def execMod5 (l : Nat) (v : BitVec 160) (s : State) : Result :=
  checkWidth 88 l s (replyValue 3 (val (reduce6Add3 (operandWords v ++ [0]) zero3) % 2 ^ l) s)

end Sys2Proof.Machine
end

