-- ==== Sys2Proof/Machine/MulModPrime.lean ====
section
/-! DEFINITION. Unit 2: the multiply-mod-prime hashes MMP31, MMP61, MMP89, MMP31X3 (41_multiply_mod_prime.md). -/

namespace Sys2Proof.Machine

/-- `fold_k(y)` for the prime `p = 2^k − 1` (R141): the high bits folded into the low `k` bits with one addition, then at most one
subtraction of `p`. -/
def fold (k y : Nat) : Nat :=
  let p := 2 ^ k - 1
  let f := y % 2 ^ k + y / 2 ^ k
  if p ≤ f then f - p else f

/-- The 31-bit hash of in-domain operands (R142, used three times by R146). -/
def hash31 (l a b x : Nat) : Nat := fold 31 (a * x + b) % 2 ^ l

/-- MMP31 (R142). -/
def execMmp31 (l : Nat) (a b x : BitVec 32) (s : State) : Result :=
  checkWidth 30 l s <|
    checkDomain (a.toNat < Config.p31 && b.toNat < Config.p31 && x.toNat < Config.p31) s <|
      replyValue 1 (hash31 l a.toNat b.toNat x.toNat) s

/-- MMP61 (R143). -/
def execMmp61 (l : Nat) (a b x : BitVec 64) (s : State) : Result :=
  checkWidth 60 l s <|
    checkDomain (a.toNat < Config.p61 && b.toNat < Config.p61 && x.toNat < Config.p61) s <|
      replyValue 2 (fold 61 (a.toNat * x.toNat + b.toNat) % 2 ^ l) s

/-- MMP89 (R144): the multiply-add of the limb routines, then the reduction with the sixth limb zero. -/
def execMmp89 (l : Nat) (a b : BitVec 96) (x : BitVec 64) (s : State) : Result :=
  checkWidth 88 l s <|
    checkDomain (isFieldElement a && isFieldElement b) s <|
      replyValue 3 (val (reduce6Add3 (mul3xnAdd3 (operandWords a) (operandWords x) (operandWords b) ++ [0]) zero3) % 2 ^ l) s

/-- The three slices of a 64-bit input: bits 29:0, 59:30 and 63:60 (R146). -/
def slices (x : BitVec 64) : Nat × Nat × Nat :=
  ((x.extractLsb' 0 30).toNat, (x.extractLsb' 30 30).toNat, (x.extractLsb' 60 4).toNat)

/-- MMP31X3 (R146): three independent 31-bit hashes of the slices, joined by exclusive or. -/
def execMmp31x3 (l : Nat) (a0 b0 a1 b1 a2 b2 : BitVec 32) (x : BitVec 64) (s : State) : Result :=
  checkWidth 30 l s <|
    checkDomain ([a0, b0, a1, b1, a2, b2].all fun v => v.toNat < Config.p31) s <|
      replyValue 1 (hash31 l a0.toNat b0.toNat (slices x).1 ^^^ hash31 l a1.toNat b1.toNat (slices x).2.1 ^^^
        hash31 l a2.toNat b2.toNat (slices x).2.2) s

end Sys2Proof.Machine
end

