-- ==== Sys2Proof/Machine/MulShift.lean ====
section
/-! DEFINITION. Unit 3: plain and affine multiply-shift (42_multiply_shift.md). Products and sums are `BitVec` arithmetic, which wraps
at the width of its type, as R160 has it. -/

namespace Sys2Proof.Machine

/-- The plain construction on a `w`-bit domain (R160): `((a·x) mod 2^w) >> (w − l)`. -/
def mulShift {w : Nat} (l : Nat) (a x : BitVec w) : BitVec w := (a * x) >>> (w - l)

/-- The affine construction with working width `v = 2w` (R160): `((a·x + b) mod 2^v) >> (v − l)`, `x` zero-extended. -/
def mulShiftStrong {w v : Nat} (l : Nat) (a b : BitVec v) (x : BitVec w) : BitVec v :=
  (a * x.setWidth v + b) >>> (v - l)

/-- MS32 (R161). -/
def execMs32 (l : Nat) (a x : BitVec 32) (s : State) : Result :=
  checkWidth 32 l s (replyValue 1 (mulShift l a x).toNat s)

/-- MS64 (R162). -/
def execMs64 (l : Nat) (a x : BitVec 64) (s : State) : Result :=
  checkWidth 64 l s (replyValue 2 (mulShift l a x).toNat s)

/-- MS128 (R163). -/
def execMs128 (l : Nat) (a x : BitVec 128) (s : State) : Result :=
  checkWidth 128 l s (replyValue 4 (mulShift l a x).toNat s)

/-- MSS32 (R164). -/
def execMss32 (l : Nat) (a b : BitVec 64) (x : BitVec 32) (s : State) : Result :=
  checkWidth 32 l s (replyValue 1 (mulShiftStrong l a b x).toNat s)

/-- MSS64 (R165). -/
def execMss64 (l : Nat) (a b : BitVec 128) (x : BitVec 64) (s : State) : Result :=
  checkWidth 64 l s (replyValue 2 (mulShiftStrong l a b x).toNat s)

/-- MSS128 (R166). -/
def execMss128 (l : Nat) (a b : BitVec 256) (x : BitVec 128) (s : State) : Result :=
  checkWidth 128 l s (replyValue 4 (mulShiftStrong l a b x).toNat s)

end Sys2Proof.Machine
end

