-- ==== Sys2Proof/Machine/PolyStream.lean ====
section
/-! DEFINITION. Unit 5: the streaming polynomial hasher PH.* over the 89-bit prime field (44_poly_stream.md). The two internal functions
are the closed forms of R213 and R215; `phWriteLimbs` and `phFinishLimbs` are their limb-level realisation (R216), which R216 says
gives the same values (log 7). -/

namespace Sys2Proof.Machine

/-- `ph_write(c, state, x)` (R213): `(c·state + x) mod P89`. -/
def phWrite (c state : FieldElement) (x : BitVec 64) : FieldElement :=
  BitVec.ofNat 89 ((c.toNat * state.toNat + x.toNat) % Config.p89)

/-- `ph_finish(a, b, state, l)` (R215): `((a·state + b) mod P89) mod 2^l`. -/
def phFinish (a b state : FieldElement) (l : Nat) : Nat :=
  (a.toNat * state.toNat + b.toNat) % Config.p89 % 2 ^ l

/-- `ph_write` by the limb routines (R216). -/
def phWriteLimbs (c state : FieldElement) (x : BitVec 64) : Nat :=
  val (reduce6Add3 (mul3xnAdd3 (limbs 3 c.toNat) (limbs 3 state.toNat) zero3) (operandWords x ++ [0]))

/-- `ph_finish` by the limb routines (R216). -/
def phFinishLimbs (a b state : FieldElement) (l : Nat) : Nat :=
  val (reduce6Add3 (mul3xnAdd3 (limbs 3 a.toNat) (limbs 3 state.toNat) zero3) (limbs 3 b.toNat)) % 2 ^ l

/-- PH.NEW (R211). -/
def execPhNew (ctx : Nat) (a b c : BitVec 96) (s : State) : Result :=
  withContext s.ph ctx s fun _ =>
    checkDomain (isFieldElement a && isFieldElement b && isFieldElement c) s <|
      reply [] (s.setPh ctx ⟨true, storeElement a, storeElement b, storeElement c, 0⟩)

/-- PH.WRITE (R212). -/
def execPhWrite (ctx : Nat) (x : BitVec 64) (s : State) : Result :=
  withContext s.ph ctx s fun h =>
    checkValid h.valid s <|
      reply [] (s.setPh ctx { h with state := phWrite h.c h.state x })

/-- PH.FINISH (R214). -/
def execPhFinish (ctx l : Nat) (s : State) : Result :=
  checkWidth 88 l s <|
    withContext s.ph ctx s fun h =>
      checkValid h.valid s <|
        replyValue 3 (phFinish h.a h.b h.state l) (s.setPh ctx { h with state := 0 })

end Sys2Proof.Machine
end

