-- ==== Sys2Proof/Machine/Preprocess.lean ====
section
/-! DEFINITION. Unit 6: the preprocessing pipeline PP.* (45_preprocessing.md): two filter buffers in lock-step in front of a polynomial
hasher of its own. -/

namespace Sys2Proof.Machine

/-- `pack(h0, h1) = h0 | (h1 << 32)` (R234). -/
def pack (h0 h1 : BitVec 64) : BitVec 64 := h0 ||| (h1 <<< 32)

/-- `pp_flush(Q)` (R233): both filters finished at width 32, their outputs packed and fed to the hasher. -/
def ppFlush (q : PpContext) : PpContext :=
  { q with
    f0 := fbEmptied q.f0
    f1 := fbEmptied q.f1
    state := phWrite q.c q.state (pack (fbDigest q.f0 32) (fbDigest q.f1 32)) }

/-- The pipeline a write feeds: flushed first when both filters are full (R232). -/
def ppBeforeWrite (q : PpContext) : PpContext := if fbDone q.f0 && fbDone q.f1 then ppFlush q else q

/-- The pipeline a finish reads: flushed first when anything is buffered (R236). -/
def ppBeforeFinish (q : PpContext) : PpContext := if q.f0.cur ≠ 0 then ppFlush q else q

/-- Both filters fed the same word (R232, R235); none when a key slot does not exist. -/
def ppFeed (q : PpContext) (x : BitVec 64) : Option PpContext :=
  match fbWrite q.f0 x, fbWrite q.f1 x with
  | some f0, some f1 => some { q with f0 := f0, f1 := f1 }
  | _, _ => none

/-- PP.NEW (R231). -/
def execPpNew (ctx : Nat) (a b c : BitVec 96) (k0 : Keys) (kb0 : Key) (k1 : Keys) (kb1 : Key) (s : State) : Result :=
  withContext s.pp ctx s fun _ =>
    checkDomain (isFieldElement a && isFieldElement b && isFieldElement c) s <|
      reply [] (s.setPp ctx ⟨true, storeElement a, storeElement b, storeElement c, 0, fbNew k0 kb0, fbNew k1 kb1⟩)

/-- PP.WRITE (R232). -/
def execPpWrite (ctx : Nat) (x : BitVec 64) (s : State) : Result :=
  withContext s.pp ctx s fun q =>
    checkValid q.valid s <|
      match ppFeed (ppBeforeWrite q) x with
      | some q' => reply [] (s.setPp ctx q')
      | none => .fault .keySlotOutOfRange

/-- PP.FINISH (R236). -/
def execPpFinish (ctx l : Nat) (s : State) : Result :=
  checkWidth 88 l s <|
    withContext s.pp ctx s fun q =>
      checkValid q.valid s <|
        replyValue 3 (phFinish q.a q.b (ppBeforeFinish q).state l)
          (s.setPp ctx { ppBeforeFinish q with state := 0 })

end Sys2Proof.Machine
end

