-- ==== Sys2Proof/Machine/System.lean ====
section
/-! DEFINITION. The system command STATUS (46_system.md). -/

namespace Sys2Proof.Machine

/-- STATUS (R250): returns the STATUS register and leaves it as it is. -/
def execStatus (s : State) : Result := reply [s.status.word] s

end Sys2Proof.Machine
end

