-- ==== Sys2Proof/Machine/VectorBlock.lean ====
section
/-! DEFINITION. Unit 4: the one-shot vector hashes VDOT and VDOTP and the streaming pair filter PF.* (43_vector_block.md). -/

namespace Sys2Proof.Machine

/-- The accumulated sum of VDOT (R181), modulo `2^64`; lanes zero-extended. -/
def dotSum (a : Keys) (x : Lanes) : BitVec 64 :=
  (List.finRange 64).foldl (fun s i => s + a[i] * (x[i]).setWidth 64) 0

/-- The accumulated sum of VDOTP (R182), modulo `2^64`: 32 products of crossed pairs. -/
def pairedSum (a : Keys) (x : Lanes) : BitVec 64 :=
  (List.finRange 32).foldl
    (fun s i => s + pairProduct a[2 * i.val] a[2 * i.val + 1] ((x[2 * i.val]).setWidth 64) ((x[2 * i.val + 1]).setWidth 64)) 0

/-- The last step of VDOT and VDOTP (R181, R182): `b` added, the top `l` bits kept. -/
def topBits (l : Nat) (b s : BitVec 64) : BitVec 64 := (b + s) >>> (64 - l)

/-- VDOT (R181). -/
def execVdot (l : Nat) (a : Keys) (b : Key) (x : Lanes) (s : State) : Result :=
  checkWidth 32 l s (replyValue 1 (topBits l b (dotSum a x)).toNat s)

/-- VDOTP (R182). -/
def execVdotp (l : Nat) (a : Keys) (b : Key) (x : Lanes) (s : State) : Result :=
  checkWidth 32 l s (replyValue 1 (topBits l b (pairedSum a x)).toNat s)

/-- PF.NEW (R183). -/
def execPfNew (ctx : Nat) (k : Keys) (kb : Key) (s : State) : Result :=
  withContext s.pf ctx s fun _ => reply [] (s.setPf ctx ⟨true, fbNew k kb⟩)

/-- PF.WRITE (R186): refused with E_FULL at CUR = 32. -/
def execPfWrite (ctx : Nat) (x : BitVec 64) (s : State) : Result :=
  withContext s.pf ctx s fun f =>
    checkValid f.valid s <|
      if fbDone f.buf then raise .full s
      else
        match fbWrite f.buf x with
        | some buf => reply [] (s.setPf ctx { f with buf := buf })
        | none => .fault .keySlotOutOfRange

/-- PF.ISDONE (R188). -/
def execPfIsdone (ctx : Nat) (s : State) : Result :=
  withContext s.pf ctx s fun f => checkValid f.valid s (replyValue 1 (fbDone f.buf).toNat s)

/-- PF.FINISH (R190). -/
def execPfFinish (ctx l : Nat) (s : State) : Result :=
  checkWidth 32 l s <|
    withContext s.pf ctx s fun f =>
      checkValid f.valid s <|
        replyValue 1 (fbDigest f.buf l).toNat (s.setPf ctx { f with buf := fbEmptied f.buf })

end Sys2Proof.Machine
end

