-- ==== Sys2Proof/Machine/Dispatch.lean ====
section
/-! DEFINITION. One arm per command (30_encoding.md R86), each one call of its meaning. -/

namespace Sys2Proof.Machine

def exec (i : Instr) (s : State) : Host.Outcome State Fault Refusal :=
  match i with
  | .status => Sys2Proof.Machine.execStatus s
  | .mul3x1 a x => Sys2Proof.Machine.execMul3x1 a x s
  | .mul3x1a3 a x d => Sys2Proof.Machine.execMul3x1a3 a x d s
  | .mul3x2 a x => Sys2Proof.Machine.execMul3x2 a x s
  | .muladd a b x => Sys2Proof.Machine.execMuladd a b x s
  | .mul3x3 a x => Sys2Proof.Machine.execMul3x3 a x s
  | .red6a3 w e => Sys2Proof.Machine.execRed6a3 w e s
  | .mod5 l v => Sys2Proof.Machine.execMod5 l v s
  | .mmp31 l a b x => Sys2Proof.Machine.execMmp31 l a b x s
  | .mmp61 l a b x => Sys2Proof.Machine.execMmp61 l a b x s
  | .mmp89 l a b x => Sys2Proof.Machine.execMmp89 l a b x s
  | .mmp31x3 l a0 b0 a1 b1 a2 b2 x => Sys2Proof.Machine.execMmp31x3 l a0 b0 a1 b1 a2 b2 x s
  | .ms32 l a x => Sys2Proof.Machine.execMs32 l a x s
  | .ms64 l a x => Sys2Proof.Machine.execMs64 l a x s
  | .ms128 l a x => Sys2Proof.Machine.execMs128 l a x s
  | .mss32 l a b x => Sys2Proof.Machine.execMss32 l a b x s
  | .mss64 l a b x => Sys2Proof.Machine.execMss64 l a b x s
  | .mss128 l a b x => Sys2Proof.Machine.execMss128 l a b x s
  | .vdot l a b x => Sys2Proof.Machine.execVdot l a b x s
  | .vdotp l a b x => Sys2Proof.Machine.execVdotp l a b x s
  | .pfNew ctx k kb => Sys2Proof.Machine.execPfNew ctx k kb s
  | .pfWrite ctx x => Sys2Proof.Machine.execPfWrite ctx x s
  | .pfIsdone ctx => Sys2Proof.Machine.execPfIsdone ctx s
  | .pfFinish ctx l => Sys2Proof.Machine.execPfFinish ctx l s
  | .phNew ctx a b c => Sys2Proof.Machine.execPhNew ctx a b c s
  | .phWrite ctx x => Sys2Proof.Machine.execPhWrite ctx x s
  | .phFinish ctx l => Sys2Proof.Machine.execPhFinish ctx l s
  | .ppNew ctx a b c k0 kb0 k1 kb1 => Sys2Proof.Machine.execPpNew ctx a b c k0 kb0 k1 kb1 s
  | .ppWrite ctx x => Sys2Proof.Machine.execPpWrite ctx x s
  | .ppFinish ctx l => Sys2Proof.Machine.execPpFinish ctx l s

end Sys2Proof.Machine
end

