-- ==== Sys2Proof/Machine/Fetch.lean ====
section
/-! DEFINITION. The command port (30_encoding.md R80): how the block takes the next input and how one is presented. The block fetches
nothing from a memory and has no program counter (10_state.md R31); the order of the port is the only program order. -/

namespace Sys2Proof.Machine

/-- The oldest pending input, if any, and the state with it taken from the port. -/
def takeEvent (s : State) : Option PortEvent × State :=
  match s.port with
  | [] => (none, s)
  | e :: rest => (some e, { s with port := rest })

/-- The state with a command packet presented before everything pending. -/
def presentFirst (s : State) (p : Packet) : State := { s with port := .command p :: s.port }

/-- The state with an input presented after everything pending. -/
def present (s : State) (e : PortEvent) : State := { s with port := s.port ++ [e] }

end Sys2Proof.Machine
end

