-- ==== Sys2Proof/Machine/Step.lean ====
section
/-! DEFINITION. One step of the block: the oldest pending input is taken from the port and served (10_state.md R31, 20_memory.md R71). -/

namespace Sys2Proof.Machine

/-- One step. Nothing pending: the block holds its state (60_exceptions.md R280, log 5). A reset: R291, and no response (R292).
A command: decoded (30_encoding.md R88) and executed to its end, or refused with the decoder's error as the exception it is
(R262, R263, R270). -/
def step (s : State) : Host.Outcome State Fault Refusal :=
  match takeEvent s with
  | (none, s') => .next s'
  | (some .reset, s') => .next s'.applyReset
  | (some (.command p), s') =>
    match decode p with
    | .ok i => exec i s'
    | .error e => raise e s'

/-- The state in which the next step takes the packet of the table word `w` (log 4, log 9). -/
def State.withFetchWord (s : State) (nbits w : Nat) : State := presentFirst s (tablePacket nbits w)

end Sys2Proof.Machine
end

