-- ==== Sys2Proof/Machine/Assembler.lean ====
section
/-! DEFINITION. The assembler syntax of 30_encoding.md R94 to R100: a line of text to a command, the pseudo-instructions and the default
width included. The block itself never sees text; a line stands for the packet `encode` gives its command. -/

namespace Sys2Proof.Machine

/-- A token of a line. -/
inductive Token where
  | word (cs : List Char)
  | comma
  | lbracket
  | rbracket
  deriving DecidableEq, Repr

/-- An operand as written (R95): a number, or a bracketed list of numbers. That a list holds no list is the model's choice (log 14). -/
inductive Literal where
  | scalar (n : Nat)
  | list (ns : List Nat)
  deriving DecidableEq, Repr

/-- A word that has ended, put before the tokens after it. -/
def endWord (cur : List Char) (rest : List Token) : List Token :=
  if cur = [] then rest else .word cur.reverse :: rest

/-- The tokens of a line; blanks separate words and stand for nothing else (log 14). -/
def tokens : List Char → List Char → List Token
  | [], cur => endWord cur []
  | c :: cs, cur =>
    if c = ' ' then endWord cur (tokens cs [])
    else if c = ',' then endWord cur (.comma :: tokens cs [])
    else if c = '[' then endWord cur (.lbracket :: tokens cs [])
    else if c = ']' then endWord cur (.rbracket :: tokens cs [])
    else tokens cs (c :: cur)

/-- The value of a digit below `base`. -/
def digit (base : Nat) (c : Char) : Option Nat :=
  let n := c.toNat
  let v := if 48 ≤ n ∧ n ≤ 57 then n - 48 else if 97 ≤ n ∧ n ≤ 102 then n - 87 else if 65 ≤ n ∧ n ≤ 70 then n - 55 else base
  if v < base then some v else none

/-- A run of digits read on from `acc`. -/
def digits (base : Nat) : List Char → Nat → Option Nat
  | [], acc => some acc
  | c :: cs, acc => (digit base c).bind fun d => digits base cs (acc * base + d)

/-- A scalar literal (R95): decimal, or hexadecimal after `0x`. -/
def number : List Char → Option Nat
  | [] => none
  | ['0', 'x'] => none
  | '0' :: 'x' :: cs => digits 16 cs 0
  | cs => digits 10 cs 0

/-- Where in an operand list the reader stands. -/
inductive Expecting where
  | operand
  | separator
  | element (before : List Nat)
  | elementSeparator (before : List Nat)
  deriving DecidableEq, Repr

/-- The operands of a line, separated by commas (R94, R95). DESIGN CHOICE, safe (log 14): R95 can be read to allow or to forbid a bracketed
limb list as an element of an array; here brackets do not nest, and an element is one number. -/
def literals : Expecting → List Token → Option (List Literal)
  | .operand, .word w :: ts => (number w).bind fun n => (literals .separator ts).map (.scalar n :: ·)
  | .operand, .lbracket :: ts => literals (.element []) ts
  | .separator, [] => some []
  | .separator, .comma :: ts => literals .operand ts
  | .element ns, .word w :: ts => (number w).bind fun n => literals (.elementSeparator (ns ++ [n])) ts
  | .elementSeparator ns, .comma :: ts => literals (.element ns) ts
  | .elementSeparator ns, .rbracket :: ts => (literals .separator ts).map (.list ns :: ·)
  | _, _ => none

/-- A header number below `bound`: `ctx` or `l` (R94). DESIGN CHOICE, safe (log 14): it is written as a number; a bracketed list is an
assembly error. -/
def headerNumber (bound : Nat) : Literal → Option Nat
  | .scalar n => if n < bound then some n else none
  | .list _ => none

/-- A payload operand of `w` bits (R95): a scalar that fits, or a list of exactly its limbs, least-significant first. -/
def operandOf (w : Nat) : Literal → Option (BitVec w)
  | .scalar n => if n < 2 ^ w then some (BitVec.ofNat w n) else none
  | .list ns =>
    if ns.length = w / 32 ∧ ns.all (· < 2 ^ 32) then some (BitVec.ofNat w (val (ns.map (BitVec.ofNat 32)))) else none

/-- An array operand of 64 elements of `w` bits (R95), each one number (log 14). -/
def arrayOf (w : Nat) : Literal → Option (Vector (BitVec w) 64)
  | .scalar _ => none
  | .list ns =>
    if ns.length = 64 ∧ ns.all (· < 2 ^ w) then some (Vector.ofFn fun i : Fin 64 => BitVec.ofNat w (ns.getD i.val 0)) else none

/-- `l` as written (R94). -/
def widthOf (l : Literal) : Option Nat := headerNumber 256 l

/-- `ctx` as written (R94). -/
def ctxOf (c : Literal) : Option Nat := headerNumber 16 c

/-- The commands of units 0 and 1 (R94). -/
def asmLimb (name : String) (ops : List Literal) : Option Instr :=
  match name, ops with
  | "status", [] => some .status
  | "mul3x1", [a, x] => do some (.mul3x1 (← operandOf 96 a) (← operandOf 32 x))
  | "mul3x1a3", [a, x, d] => do some (.mul3x1a3 (← operandOf 96 a) (← operandOf 32 x) (← operandOf 96 d))
  | "mul3x2", [a, x] => do some (.mul3x2 (← operandOf 96 a) (← operandOf 64 x))
  | "muladd", [a, b, x] => do some (.muladd (← operandOf 96 a) (← operandOf 96 b) (← operandOf 64 x))
  | "mul3x3", [a, x] => do some (.mul3x3 (← operandOf 96 a) (← operandOf 96 x))
  | "red6a3", [w, e] => do some (.red6a3 (← operandOf 192 w) (← operandOf 96 e))
  | "mod5", [l, v] => do some (.mod5 (← widthOf l) (← operandOf 160 v))
  | _, _ => none

/-- The commands of units 2 and 3 (R94). -/
def asmHash (name : String) (ops : List Literal) : Option Instr :=
  match name, ops with
  | "mmp31", [l, a, b, x] => do some (.mmp31 (← widthOf l) (← operandOf 32 a) (← operandOf 32 b) (← operandOf 32 x))
  | "mmp61", [l, a, b, x] => do some (.mmp61 (← widthOf l) (← operandOf 64 a) (← operandOf 64 b) (← operandOf 64 x))
  | "mmp89", [l, a, b, x] => do some (.mmp89 (← widthOf l) (← operandOf 96 a) (← operandOf 96 b) (← operandOf 64 x))
  | "mmp31x3", [l, a0, b0, a1, b1, a2, b2, x] => do
    some (.mmp31x3 (← widthOf l) (← operandOf 32 a0) (← operandOf 32 b0) (← operandOf 32 a1) (← operandOf 32 b1)
      (← operandOf 32 a2) (← operandOf 32 b2) (← operandOf 64 x))
  | "ms32", [l, a, x] => do some (.ms32 (← widthOf l) (← operandOf 32 a) (← operandOf 32 x))
  | "ms64", [l, a, x] => do some (.ms64 (← widthOf l) (← operandOf 64 a) (← operandOf 64 x))
  | "ms128", [l, a, x] => do some (.ms128 (← widthOf l) (← operandOf 128 a) (← operandOf 128 x))
  | "mss32", [l, a, b, x] => do some (.mss32 (← widthOf l) (← operandOf 64 a) (← operandOf 64 b) (← operandOf 32 x))
  | "mss64", [l, a, b, x] => do some (.mss64 (← widthOf l) (← operandOf 128 a) (← operandOf 128 b) (← operandOf 64 x))
  | "mss128", [l, a, b, x] => do some (.mss128 (← widthOf l) (← operandOf 256 a) (← operandOf 256 b) (← operandOf 128 x))
  | _, _ => none

/-- The commands of units 4, 5 and 6 (R94, R100); a FINISH written without a width takes the default (R99). -/
def asmStream (name : String) (ops : List Literal) : Option Instr :=
  match name, ops with
  | "vdot", [l, a, b, x] => do some (.vdot (← widthOf l) (← arrayOf 64 a) (← operandOf 64 b) (← arrayOf 32 x))
  | "vdotp", [l, a, b, x] => do some (.vdotp (← widthOf l) (← arrayOf 64 a) (← operandOf 64 b) (← arrayOf 32 x))
  | "pf.new", [c, k, kb] => do some (.pfNew (← ctxOf c) (← arrayOf 64 k) (← operandOf 64 kb))
  | "pf.write", [c, x] => do some (.pfWrite (← ctxOf c) (← operandOf 64 x))
  | "pf.isdone", [c] => do some (.pfIsdone (← ctxOf c))
  | "pf.finish", [c, l] => do some (.pfFinish (← ctxOf c) (← widthOf l))
  | "pf.finish", [c] => do some (.pfFinish (← ctxOf c) Config.defaultWidth)
  | "ph.new", [n, a, b, c] => do some (.phNew (← ctxOf n) (← operandOf 96 a) (← operandOf 96 b) (← operandOf 96 c))
  | "ph.write", [c, x] => do some (.phWrite (← ctxOf c) (← operandOf 64 x))
  | "ph.finish", [c, l] => do some (.phFinish (← ctxOf c) (← widthOf l))
  | "ph.finish", [c] => do some (.phFinish (← ctxOf c) Config.defaultWidth)
  | "pp.new", [n, a, b, c, k0, kb0, k1, kb1] => do
    some (.ppNew (← ctxOf n) (← operandOf 96 a) (← operandOf 96 b) (← operandOf 96 c)
      (← arrayOf 64 k0) (← operandOf 64 kb0) (← arrayOf 64 k1) (← operandOf 64 kb1))
  | "pp.write", [c, x] => do some (.ppWrite (← ctxOf c) (← operandOf 64 x))
  | "pp.finish", [c, l] => do some (.ppFinish (← ctxOf c) (← widthOf l))
  | "pp.finish", [c] => do some (.ppFinish (← ctxOf c) Config.defaultWidth)
  | _, _ => none

/-- The pseudo-instructions: what a mnemonic and its operands stand for in core form (R96, R97, R98, R99). -/
def expandPseudo (name : String) (ops : List Literal) : Option (String × List Literal) :=
  match name, ops with
  | "mmp", .scalar 31 :: rest => some ("mmp31", rest)
  | "mmp", .scalar 61 :: rest => some ("mmp61", rest)
  | "mmp", .scalar 89 :: rest => some ("mmp89", rest)
  | "multiply_shift", .scalar 32 :: rest => some ("ms32", rest)
  | "multiply_shift", .scalar 64 :: rest => some ("ms64", rest)
  | "multiply_shift", .scalar 128 :: rest => some ("ms128", rest)
  | "multiply_shift_strong", .scalar 32 :: rest => some ("mss32", rest)
  | "multiply_shift_strong", .scalar 64 :: rest => some ("mss64", rest)
  | "multiply_shift_strong", .scalar 128 :: rest => some ("mss128", rest)
  | "multiply_add", [a, b, x] => some ("muladd", [a, b, x])
  | "modulo", [v] => some ("mod5", [.scalar Config.defaultWidth, v])
  | "mmp31", [a, b, x] => some ("mmp31", [.scalar 30, a, b, x])
  | "vec_dot", [a, b, x] => some ("vdot", [.scalar Config.defaultWidth, a, b, x])
  | "vec_dot_paired", [a, b, x] => some ("vdotp", [.scalar Config.defaultWidth, a, b, x])
  | _, _ => none

/-- A command from its mnemonic in lower case and its operands. -/
def assembleOps (name : String) (ops : List Literal) : Option Instr :=
  let core := (expandPseudo name ops).getD (name, ops)
  (asmLimb core.1 core.2).or ((asmHash core.1 core.2).or (asmStream core.1 core.2))

/-- A line of assembly: the mnemonic, in any case, then the operands (R94); none for an assembly error. -/
def assembleChars (line : List Char) : Option Instr :=
  match tokens line [] with
  | [.word m] => assembleOps (String.ofList (m.map Char.toLower)) []
  | .word m :: ts => (literals .operand ts).bind (assembleOps (String.ofList (m.map Char.toLower)))
  | _ => none

/-- A line of assembly as a string. -/
def assemble (line : String) : Option Instr := assembleChars line.toList

end Sys2Proof.Machine
end

