-- ==== Sys2Proof/WellFormed.lean ====
section
/-! DEFINITION. Which terms of `Instr` are commands a header can carry: L is an 8-bit and CTX a 4-bit number
(30_encoding.md R81, R82, R83). Every other operand has its width in its type. A legal L for the command at hand is not
asked for here: an L outside the command's range is a well-formed command that raises E_WIDTH (R265). -/

namespace Sys2Proof

/-- L fits the header's bits 15:8 (R81). -/
def widthFits (l : Nat) : Bool := decide (l < 256)

/-- CTX fits the header's bits 19:16 (R81). -/
def ctxFits (ctx : Nat) : Bool := decide (ctx < 16)

/-- The check, one arm per command. -/
def Instr.wellFormed : Instr → Bool
  | .status => true
  | .mul3x1 _ _ => true
  | .mul3x1a3 _ _ _ => true
  | .mul3x2 _ _ => true
  | .muladd _ _ _ => true
  | .mul3x3 _ _ => true
  | .red6a3 _ _ => true
  | .mod5 l _ => widthFits l
  | .mmp31 l _ _ _ => widthFits l
  | .mmp61 l _ _ _ => widthFits l
  | .mmp89 l _ _ _ => widthFits l
  | .mmp31x3 l _ _ _ _ _ _ _ => widthFits l
  | .ms32 l _ _ => widthFits l
  | .ms64 l _ _ => widthFits l
  | .ms128 l _ _ => widthFits l
  | .mss32 l _ _ _ => widthFits l
  | .mss64 l _ _ _ => widthFits l
  | .mss128 l _ _ _ => widthFits l
  | .vdot l _ _ _ => widthFits l
  | .vdotp l _ _ _ => widthFits l
  | .pfNew ctx _ _ => ctxFits ctx
  | .pfWrite ctx _ => ctxFits ctx
  | .pfIsdone ctx => ctxFits ctx
  | .pfFinish ctx l => ctxFits ctx && widthFits l
  | .phNew ctx _ _ _ => ctxFits ctx
  | .phWrite ctx _ => ctxFits ctx
  | .phFinish ctx l => ctxFits ctx && widthFits l
  | .ppNew ctx _ _ _ _ _ _ _ => ctxFits ctx
  | .ppWrite ctx _ => ctxFits ctx
  | .ppFinish ctx l => ctxFits ctx && widthFits l

/-- The check as a proposition. -/
abbrev Instr.WellFormed (i : Instr) : Prop := i.wellFormed = true

end Sys2Proof
end

