-- ==== Sys2Proof/Safety.lean ====
section
/-! DEFINITION. What claims are stated in: the invariants of a valid state (10_state.md R35, R37, R38), command sequences, the state a
success or a failure leaves, the command table's columns as functions, and the closed forms the rules give. -/

namespace Sys2Proof

/-- The L operand of a command that uses L (column "uses L" of R86). -/
def Instr.widthOperand : Instr → Option Nat
  | .status => none
  | .mul3x1 _ _ => none
  | .mul3x1a3 _ _ _ => none
  | .mul3x2 _ _ => none
  | .muladd _ _ _ => none
  | .mul3x3 _ _ => none
  | .red6a3 _ _ => none
  | .mod5 l _ => some l
  | .mmp31 l _ _ _ => some l
  | .mmp61 l _ _ _ => some l
  | .mmp89 l _ _ _ => some l
  | .mmp31x3 l _ _ _ _ _ _ _ => some l
  | .ms32 l _ _ => some l
  | .ms64 l _ _ => some l
  | .ms128 l _ _ => some l
  | .mss32 l _ _ _ => some l
  | .mss64 l _ _ _ => some l
  | .mss128 l _ _ _ => some l
  | .vdot l _ _ _ => some l
  | .vdotp l _ _ _ => some l
  | .pfNew _ _ _ => none
  | .pfWrite _ _ => none
  | .pfIsdone _ => none
  | .pfFinish _ l => some l
  | .phNew _ _ _ _ => none
  | .phWrite _ _ => none
  | .phFinish _ l => some l
  | .ppNew _ _ _ _ _ _ _ _ => none
  | .ppWrite _ _ => none
  | .ppFinish _ l => some l

/-- The largest legal L of a command that uses L (R265); 0 for the others. -/
def Instr.maxWidth : Instr → Nat
  | .status => 0
  | .mul3x1 _ _ => 0
  | .mul3x1a3 _ _ _ => 0
  | .mul3x2 _ _ => 0
  | .muladd _ _ _ => 0
  | .mul3x3 _ _ => 0
  | .red6a3 _ _ => 0
  | .mod5 _ _ => 88
  | .mmp31 _ _ _ _ => 30
  | .mmp61 _ _ _ _ => 60
  | .mmp89 _ _ _ _ => 88
  | .mmp31x3 _ _ _ _ _ _ _ _ => 30
  | .ms32 _ _ _ => 32
  | .ms64 _ _ _ => 64
  | .ms128 _ _ _ => 128
  | .mss32 _ _ _ _ => 32
  | .mss64 _ _ _ _ => 64
  | .mss128 _ _ _ _ => 128
  | .vdot _ _ _ _ => 32
  | .vdotp _ _ _ _ => 32
  | .pfNew _ _ _ => 0
  | .pfWrite _ _ => 0
  | .pfIsdone _ => 0
  | .pfFinish _ _ => 32
  | .phNew _ _ _ _ => 0
  | .phWrite _ _ => 0
  | .phFinish _ _ => 88
  | .ppNew _ _ _ _ _ _ _ _ => 0
  | .ppWrite _ _ => 0
  | .ppFinish _ _ => 88

/-- The L of a command that uses L is legal (R265). -/
abbrev Instr.WidthLegal (i : Instr) : Prop := ∀ l, i.widthOperand = some l → 1 ≤ l ∧ l ≤ i.maxWidth

/-- The operand values of a command lie in their domains (R268); every other command accepts every value. -/
def Instr.inDomain : Instr → Bool
  | .red6a3 w e => decide (w.toNat < 2 ^ 178 ∧ e.toNat < 2 ^ 89)
  | .mmp31 _ a b x => decide (a.toNat < Config.p31 ∧ b.toNat < Config.p31 ∧ x.toNat < Config.p31)
  | .mmp61 _ a b x => decide (a.toNat < Config.p61 ∧ b.toNat < Config.p61 ∧ x.toNat < Config.p61)
  | .mmp89 _ a b _ => decide (a.toNat < Config.p89 ∧ b.toNat < Config.p89)
  | .mmp31x3 _ a0 b0 a1 b1 a2 b2 _ =>
    decide (a0.toNat < Config.p31 ∧ b0.toNat < Config.p31 ∧ a1.toNat < Config.p31 ∧ b1.toNat < Config.p31 ∧
      a2.toNat < Config.p31 ∧ b2.toNat < Config.p31)
  | .phNew _ a b c => decide (a.toNat < Config.p89 ∧ b.toNat < Config.p89 ∧ c.toNat < Config.p89)
  | .ppNew _ a b c _ _ _ _ => decide (a.toNat < Config.p89 ∧ b.toNat < Config.p89 ∧ c.toNat < Config.p89)
  | .status => true
  | .mul3x1 _ _ => true
  | .mul3x1a3 _ _ _ => true
  | .mul3x2 _ _ => true
  | .muladd _ _ _ => true
  | .mul3x3 _ _ => true
  | .mod5 _ _ => true
  | .ms32 _ _ _ => true
  | .ms64 _ _ _ => true
  | .ms128 _ _ _ => true
  | .mss32 _ _ _ _ => true
  | .mss64 _ _ _ _ => true
  | .mss128 _ _ _ _ => true
  | .vdot _ _ _ _ => true
  | .vdotp _ _ _ _ => true
  | .pfNew _ _ _ => true
  | .pfWrite _ _ => true
  | .pfIsdone _ => true
  | .pfFinish _ _ => true
  | .phWrite _ _ => true
  | .phFinish _ _ => true
  | .ppWrite _ _ => true
  | .ppFinish _ _ => true

/-- The result limbs of a command (column "result limbs" of R86). -/
def Instr.resultLimbs : Instr → Nat
  | .status => 1
  | .mul3x1 _ _ => 4
  | .mul3x1a3 _ _ _ => 4
  | .mul3x2 _ _ => 5
  | .muladd _ _ _ => 5
  | .mul3x3 _ _ => 6
  | .red6a3 _ _ => 3
  | .mod5 _ _ => 3
  | .mmp31 _ _ _ _ => 1
  | .mmp61 _ _ _ _ => 2
  | .mmp89 _ _ _ _ => 3
  | .mmp31x3 _ _ _ _ _ _ _ _ => 1
  | .ms32 _ _ _ => 1
  | .ms64 _ _ _ => 2
  | .ms128 _ _ _ => 4
  | .mss32 _ _ _ _ => 1
  | .mss64 _ _ _ _ => 2
  | .mss128 _ _ _ _ => 4
  | .vdot _ _ _ _ => 1
  | .vdotp _ _ _ _ => 1
  | .pfNew _ _ _ => 0
  | .pfWrite _ _ => 0
  | .pfIsdone _ => 1
  | .pfFinish _ _ => 1
  | .phNew _ _ _ _ => 0
  | .phWrite _ _ => 0
  | .phFinish _ _ => 3
  | .ppNew _ _ _ _ _ _ _ _ => 0
  | .ppWrite _ _ => 0
  | .ppFinish _ _ => 3

/-- The payload words of a command (column "payload words" of R86). -/
def Instr.payloadWords : Instr → Nat
  | .status => 0
  | .mul3x1 _ _ => 4
  | .mul3x1a3 _ _ _ => 7
  | .mul3x2 _ _ => 5
  | .muladd _ _ _ => 8
  | .mul3x3 _ _ => 6
  | .red6a3 _ _ => 9
  | .mod5 _ _ => 5
  | .mmp31 _ _ _ _ => 3
  | .mmp61 _ _ _ _ => 6
  | .mmp89 _ _ _ _ => 8
  | .mmp31x3 _ _ _ _ _ _ _ _ => 8
  | .ms32 _ _ _ => 2
  | .ms64 _ _ _ => 4
  | .ms128 _ _ _ => 8
  | .mss32 _ _ _ _ => 5
  | .mss64 _ _ _ _ => 10
  | .mss128 _ _ _ _ => 20
  | .vdot _ _ _ _ => 194
  | .vdotp _ _ _ _ => 194
  | .pfNew _ _ _ => 130
  | .pfWrite _ _ => 2
  | .pfIsdone _ => 0
  | .pfFinish _ _ => 0
  | .phNew _ _ _ _ => 9
  | .phWrite _ _ => 2
  | .phFinish _ _ => 0
  | .ppNew _ _ _ _ _ _ _ _ => 269
  | .ppWrite _ _ => 2
  | .ppFinish _ _ => 0

/-- A context as a command names it: the kind by its opcode, the index by CTX (R33, R82). -/
inductive ContextName where
  | ph (i : Nat)
  | pf (j : Nat)
  | pp (k : Nat)
  deriving DecidableEq, Repr

/-- The context a command names (column "uses CTX" of R86). -/
def Instr.context : Instr → Option ContextName
  | .status => none
  | .mul3x1 _ _ => none
  | .mul3x1a3 _ _ _ => none
  | .mul3x2 _ _ => none
  | .muladd _ _ _ => none
  | .mul3x3 _ _ => none
  | .red6a3 _ _ => none
  | .mod5 _ _ => none
  | .mmp31 _ _ _ _ => none
  | .mmp61 _ _ _ _ => none
  | .mmp89 _ _ _ _ => none
  | .mmp31x3 _ _ _ _ _ _ _ _ => none
  | .ms32 _ _ _ => none
  | .ms64 _ _ _ => none
  | .ms128 _ _ _ => none
  | .mss32 _ _ _ _ => none
  | .mss64 _ _ _ _ => none
  | .mss128 _ _ _ _ => none
  | .vdot _ _ _ _ => none
  | .vdotp _ _ _ _ => none
  | .pfNew c _ _ => some (.pf c)
  | .pfWrite c _ => some (.pf c)
  | .pfIsdone c => some (.pf c)
  | .pfFinish c _ => some (.pf c)
  | .phNew c _ _ _ => some (.ph c)
  | .phWrite c _ => some (.ph c)
  | .phFinish c _ => some (.ph c)
  | .ppNew c _ _ _ _ _ _ _ => some (.pp c)
  | .ppWrite c _ => some (.pp c)
  | .ppFinish c _ => some (.pp c)

/-- The NEW commands: PF.NEW, PH.NEW, PP.NEW (R41). -/
def Instr.isNew : Instr → Bool
  | .pfNew _ _ _ => true
  | .phNew _ _ _ _ => true
  | .ppNew _ _ _ _ _ _ _ _ => true
  | .status => false
  | .mul3x1 _ _ => false
  | .mul3x1a3 _ _ _ => false
  | .mul3x2 _ _ => false
  | .muladd _ _ _ => false
  | .mul3x3 _ _ => false
  | .red6a3 _ _ => false
  | .mod5 _ _ => false
  | .mmp31 _ _ _ _ => false
  | .mmp61 _ _ _ _ => false
  | .mmp89 _ _ _ _ => false
  | .mmp31x3 _ _ _ _ _ _ _ _ => false
  | .ms32 _ _ _ => false
  | .ms64 _ _ _ => false
  | .ms128 _ _ _ => false
  | .mss32 _ _ _ _ => false
  | .mss64 _ _ _ _ => false
  | .mss128 _ _ _ _ => false
  | .vdot _ _ _ _ => false
  | .vdotp _ _ _ _ => false
  | .pfWrite _ _ => false
  | .pfIsdone _ => false
  | .pfFinish _ _ => false
  | .phWrite _ _ => false
  | .phFinish _ _ => false
  | .ppWrite _ _ => false
  | .ppFinish _ _ => false

/-- The product of pair `i` of the paired hash over the 64-bit words `ws`, as a number: `(a_{2i} + x_{2i+1})·(a_{2i+1} + x_{2i})` with
the even lane in the low half (R182, R187). -/
def pairTerm (k : Keys) (ws : List (BitVec 64)) (i : Nat) : Nat :=
  ((k[2 * i]?.getD 0).toNat + (ws.getD i 0).toNat / 2 ^ 32) *
    ((k[2 * i + 1]?.getD 0).toNat + (ws.getD i 0).toNat % 2 ^ 32)

/-- The paired hash of the words `ws` at width `l`, as a number (R192): the sum over the words written, the finishing key added, the top
`l` of 64 bits kept. -/
def pairHash (k : Keys) (kb : Key) (ws : List (BitVec 64)) (l : Nat) : Nat :=
  (kb.toNat + ∑ i ∈ Finset.range ws.length, pairTerm k ws i) % 2 ^ 64 / 2 ^ (64 - l)

/-- A list cut into blocks of 32 with a shorter last one, at most `fuel` of them. -/
def blocksUpTo : Nat → List (BitVec 64) → List (List (BitVec 64))
  | _, [] => []
  | 0, _ :: _ => []
  | fuel + 1, w :: ws => (w :: ws).take 32 :: blocksUpTo fuel ((w :: ws).drop 32)

/-- The blocks of up to 32 words that the pipeline compresses (R237). -/
def blocks (ws : List (BitVec 64)) : List (List (BitVec 64)) := blocksUpTo ws.length ws

/-- The combined word of a block (R237): the first filter's 32-bit value in the low half, the second's in the high half (R234). -/
def combinedWord (k0 : Keys) (kb0 : Key) (k1 : Keys) (kb1 : Key) (block : List (BitVec 64)) : BitVec 64 :=
  BitVec.ofNat 64 (pairHash k0 kb0 block 32 + 2 ^ 32 * pairHash k1 kb1 block 32)

/-- The polynomial of the words `xs` at `c`, as a number (R217): `Σ_j x_j · c^(n−j)` over `j = 1 .. n`. -/
def polynomial (c : Nat) (xs : List (BitVec 64)) : Nat :=
  ∑ j ∈ Finset.range xs.length, (xs.getD j 0).toNat * c ^ (xs.length - 1 - j)

namespace Machine

/-- The state after a successful response with the given result limbs, all else as it was (R89). -/
def State.answering (s : State) (ws : List Word) : State := { s with responses := s.responses ++ [⟨0, ws⟩] }

/-- The state after DomainError with the given code (R270): ERR set, ERRCODE the code, the one-word response, all else as it was. -/
def State.failing (s : State) (code : Nat) : State :=
  { s with
    status := ⟨true, BitVec.ofNat 4 code⟩
    responses := s.responses ++ [⟨BitVec.ofNat 32 code, []⟩] }

/-- A command sequence executed in list order (R31, R301), stopping at the first fault or refusal. -/
def execAll : List Instr → State → Host.Outcome State Fault Refusal
  | [], s => .next s
  | i :: is, s =>
    match exec i s with
    | .next t => execAll is t
    | .fault r => .fault r
    | .refused r => .refused r

/-- STATUS holds a code that is produced, and a nonzero one exactly when ERR is set (R39, R261). -/
abbrev Status.Ok (st : Status) : Prop := st.errCode.toNat ≤ 7 ∧ (st.err = true ↔ st.errCode ≠ 0)

/-- The invariant of a valid polynomial-hasher context (R35). -/
abbrev PhContext.Ok (c : PhContext) : Prop :=
  c.valid = true → c.a.toNat < Config.p89 ∧ c.b.toNat < Config.p89 ∧ c.c.toNat < Config.p89 ∧ c.state.toNat < Config.p89

/-- The invariant of a filter buffer (R37): `0 ≤ CUR ≤ 32`, and SUM = 0 when CUR = 0. -/
abbrev FilterBuffer.Ok (f : FilterBuffer) : Prop := f.cur ≤ 32 ∧ (f.cur = 0 → f.sum = 0)

/-- The invariant of a valid pair-filter context (R37). -/
abbrev PfContext.Ok (c : PfContext) : Prop := c.valid = true → c.buf.Ok

/-- The invariant of a valid pipeline context (R38): those of its parts, and both cursors equal. -/
abbrev PpContext.Ok (q : PpContext) : Prop :=
  q.valid = true →
    (q.a.toNat < Config.p89 ∧ q.b.toNat < Config.p89 ∧ q.c.toNat < Config.p89 ∧ q.state.toNat < Config.p89) ∧
      q.f0.Ok ∧ q.f1.Ok ∧ q.f0.cur = q.f1.cur

/-- Each context file has 1 to 16 contexts (R8). -/
abbrev State.SizesOk (s : State) : Prop :=
  (1 ≤ s.ph.length ∧ s.ph.length ≤ 16) ∧ (1 ≤ s.pf.length ∧ s.pf.length ≤ 16) ∧ (1 ≤ s.pp.length ∧ s.pp.length ≤ 16)

/-- The invariant of the block: the sizes of R8, STATUS as R39 and R261 have it, and every valid context's own (R35, R37, R38). -/
abbrev State.Inv (s : State) : Prop :=
  s.SizesOk ∧ s.status.Ok ∧ (∀ c ∈ s.ph, c.Ok) ∧ (∀ c ∈ s.pf, c.Ok) ∧ (∀ c ∈ s.pp, c.Ok)

/-- Two `PH` contexts a host cannot tell apart (R291): the same VALID, and the same fields when valid. -/
abbrev PhContext.Alike (c d : PhContext) : Prop := c.valid = d.valid ∧ (c.valid = true → c = d)

/-- Two `PF` contexts a host cannot tell apart (R291). -/
abbrev PfContext.Alike (c d : PfContext) : Prop := c.valid = d.valid ∧ (c.valid = true → c = d)

/-- Two `PP` contexts a host cannot tell apart (R291). -/
abbrev PpContext.Alike (c d : PpContext) : Prop := c.valid = d.valid ∧ (c.valid = true → c = d)

/-- Two states that differ at most in the fields of contexts that are not valid (R291). -/
abbrev State.Alike (s t : State) : Prop :=
  s.status = t.status ∧ s.port = t.port ∧ s.responses = t.responses ∧
    List.Forall₂ PhContext.Alike s.ph t.ph ∧ List.Forall₂ PfContext.Alike s.pf t.pf ∧ List.Forall₂ PpContext.Alike s.pp t.pp

/-- The context of that name is the same in both states (R43). -/
def SameContext (s t : State) : ContextName → Prop
  | .ph i => s.ph[i]? = t.ph[i]?
  | .pf j => s.pf[j]? = t.pf[j]?
  | .pp k => s.pp[k]? = t.pp[k]?

/-- The context of that name exists in the state, that is CTX is below the file's size (R266). -/
def ContextExists (s : State) : ContextName → Prop
  | .ph i => i < s.ph.length
  | .pf j => j < s.pf.length
  | .pp k => k < s.pp.length

/-- The context of that name exists and has VALID = 0 (R267). -/
def ContextInvalid (s : State) : ContextName → Prop
  | .ph i => ∃ c, s.ph[i]? = some c ∧ c.valid = false
  | .pf j => ∃ c, s.pf[j]? = some c ∧ c.valid = false
  | .pp k => ∃ c, s.pp[k]? = some c ∧ c.valid = false

/-- The coefficients of a pipeline context: `A`, `B`, `C` and both key stores (R41). -/
def PpContext.coefficients (q : PpContext) : FieldElement × FieldElement × FieldElement × (Keys × Key) × (Keys × Key) :=
  (q.a, q.b, q.c, (q.f0.k, q.f0.kb), (q.f1.k, q.f1.kb))

/-- The coefficients of a polynomial-hasher context (R41). -/
def PhContext.coefficients (c : PhContext) : FieldElement × FieldElement × FieldElement := (c.a, c.b, c.c)

/-- The coefficients of a pair-filter context (R41). -/
def PfContext.coefficients (c : PfContext) : Keys × Key := (c.buf.k, c.buf.kb)

end Machine

end Sys2Proof
end

