-- ==== Sys2Proof/Certificates/Slice0/Obligations.lean ====
section
/-! DEFINITION. The statements for the provers, in the order of OBLIGATIONS.json. -/

open Sys2Proof Sys2Proof.Machine

/-! Port, packets, encoding. -/

/-- R88 step 4 and R31: when the packet at the port decodes to a command, the step is that command executed, the packet taken. The
port as a list is the model's choice (log 4). -/
def Obligations.StepRunsDecodedCommand : Prop :=
  ∀ (s : State) (p : Packet) (rest : List PortEvent) (i : Instr), s.port = .command p :: rest → decode p = .ok i →
    step s = exec i { s with port := rest }

/-- Words written out from R81, R85 and R86, one command of every unit and every header format. -/
def Obligations.WrittenWordsDecode : Prop :=
  decode ⟨0x00000000#32, []⟩ = .ok .status ∧
  decode ⟨0x00000010#32, [1#32, 2#32, 3#32, 4#32]⟩ = .ok (.mul3x1 0x000000030000000200000001#96 4#32) ∧
  decode ⟨0x00001E20#32, [1234#32, 5678#32, 9012#32]⟩ = .ok (.mmp31 30 1234#32 5678#32 9012#32) ∧
  decode ⟨0x00001434#32, [0x7F4A7C15#32, 0x9E3779B9#32, 0x5CEDC835#32, 0xF39CC060#32, 0x12345678#32]⟩ =
    .ok (.mss32 20 0x9E3779B97F4A7C15#64 0xF39CC0605CEDC835#64 0x12345678#32) ∧
  decode ⟨0x00010045#32, [5#32, 6#32]⟩ = .ok (.pfWrite 1 0x0000000600000005#64) ∧
  decode ⟨0x00094052#32, []⟩ = .ok (.phFinish 9 64) ∧
  decode ⟨0x00030061#32, [0x21#32, 0#32]⟩ = .ok (.ppWrite 3 33#64)

/-- R101 whole: the worked encoding, its packet, its fields and its response. -/
def Obligations.WorkedEncodingOfMmp31 : Prop :=
  assemble "MMP31 30, 1234, 5678, 9012" = some (.mmp31 30 1234#32 5678#32 9012#32) ∧
  encode (.mmp31 30 1234#32 5678#32 9012#32) = ⟨0x00001E20#32, [0x000004D2#32, 0x0000162E#32, 0x00002334#32]⟩ ∧
  (0x00001E20#32 : Word).toNat % 256 = 0x20 ∧ lField 0x00001E20#32 = 30 ∧ ctxField 0x00001E20#32 = 0 ∧
  (0x00001E20#32 : Word).toNat / 1048576 = 0 ∧
  (∀ s : State, exec (.mmp31 30 1234#32 5678#32 9012#32) s = .next (s.answering [0x00A9C6D6#32]))

/-- R96, R97, R98, R99: what each pseudo-instruction and each omitted width stands for, whatever its operands; any other prime or width
is an assembly error. -/
def Obligations.PseudoInstructionsExpand : Prop :=
  (∀ l a b x : Literal,
    assembleOps "mmp" [.scalar 31, l, a, b, x] = assembleOps "mmp31" [l, a, b, x] ∧
    assembleOps "mmp" [.scalar 61, l, a, b, x] = assembleOps "mmp61" [l, a, b, x] ∧
    assembleOps "mmp" [.scalar 89, l, a, b, x] = assembleOps "mmp89" [l, a, b, x] ∧
    (∀ n, n ∉ [31, 61, 89] → assembleOps "mmp" [.scalar n, l, a, b, x] = none)) ∧
  (∀ l a x : Literal,
    assembleOps "multiply_shift" [.scalar 32, l, a, x] = assembleOps "ms32" [l, a, x] ∧
    assembleOps "multiply_shift" [.scalar 64, l, a, x] = assembleOps "ms64" [l, a, x] ∧
    assembleOps "multiply_shift" [.scalar 128, l, a, x] = assembleOps "ms128" [l, a, x] ∧
    (∀ n, n ∉ [32, 64, 128] → assembleOps "multiply_shift" [.scalar n, l, a, x] = none)) ∧
  (∀ l a b x : Literal,
    assembleOps "multiply_shift_strong" [.scalar 32, l, a, b, x] = assembleOps "mss32" [l, a, b, x] ∧
    assembleOps "multiply_shift_strong" [.scalar 64, l, a, b, x] = assembleOps "mss64" [l, a, b, x] ∧
    assembleOps "multiply_shift_strong" [.scalar 128, l, a, b, x] = assembleOps "mss128" [l, a, b, x] ∧
    (∀ n, n ∉ [32, 64, 128] → assembleOps "multiply_shift_strong" [.scalar n, l, a, b, x] = none)) ∧
  (∀ a b x : Literal,
    assembleOps "multiply_add" [a, b, x] = assembleOps "muladd" [a, b, x] ∧
    assembleOps "modulo" [x] = assembleOps "mod5" [.scalar 20, x] ∧
    assembleOps "mmp31" [a, b, x] = assembleOps "mmp31" [.scalar 30, a, b, x] ∧
    assembleOps "vec_dot" [a, b, x] = assembleOps "vdot" [.scalar 20, a, b, x] ∧
    assembleOps "vec_dot_paired" [a, b, x] = assembleOps "vdotp" [.scalar 20, a, b, x] ∧
    assembleOps "pf.finish" [x] = assembleOps "pf.finish" [x, .scalar 20] ∧
    assembleOps "ph.finish" [x] = assembleOps "ph.finish" [x, .scalar 20] ∧
    assembleOps "pp.finish" [x] = assembleOps "pp.finish" [x, .scalar 20])

/-- R81, R85, R86, R88: decoding the packet of any well-formed command gives the command back, every operand at every value. -/
def Obligations.DecodeOfEncode : Prop :=
  ∀ i : Instr, i.WellFormed → decode (encode i) = .ok i

/-- R81, R85, R86, R88: a packet that decodes is the packet of the command it decodes to, and that command is well formed. -/
def Obligations.EncodeOfDecode : Prop :=
  ∀ (p : Packet) (i : Instr), decode p = .ok i → i.WellFormed ∧ encode i = p

/-- R86, R88: the table has 30 rows and no header selects two of them. -/
def Obligations.TableRowsAreDisjoint : Prop :=
  commandTable.length = 30 ∧
  ∀ (h : Word), ∀ r ∈ commandTable, ∀ r' ∈ commandTable, r.selects h = true → r'.selects h = true →
    r.mnemonic = r'.mnemonic

/-- R92 and R262: a header raises E_ILLEGAL, whatever the payload, exactly when it matches no row of the table, and that is exactly when
RSV is not zero, or OPC is none of the 30, or L or CTX is not zero where it must be. -/
def Obligations.IllegalHeaderRaisesIllegal : Prop :=
  ∀ (s : State) (p : Packet) (rest : List PortEvent), s.port = .command p :: rest →
    let opc := p.header.toNat % 256
    let l := p.header.toNat / 256 % 256
    let ctx := p.header.toNat / 65536 % 16
    let rsv := p.header.toNat / 1048576
    let legal := rsv = 0 ∧
      ((opc ∈ [0x00, 0x10, 0x11, 0x12, 0x13, 0x14, 0x15] ∧ l = 0 ∧ ctx = 0) ∨
       (opc ∈ [0x16, 0x20, 0x21, 0x22, 0x23, 0x30, 0x31, 0x32, 0x34, 0x35, 0x36, 0x40, 0x41] ∧ ctx = 0) ∨
       (opc ∈ [0x44, 0x45, 0x46, 0x50, 0x51, 0x60, 0x61] ∧ l = 0) ∨
       opc ∈ [0x47, 0x52, 0x62])
    (¬ legal → decode p = .error .illegal ∧ step s = .next (State.failing { s with port := rest } 1)) ∧
    (legal → decode p ≠ .error .illegal) ∧
    (legal ↔ ∃ r ∈ commandTable, p.header &&& r.mask = r.pattern)

/-- R263: a header that matches a row with more or fewer payload words than the row's count raises E_LENGTH. -/
def Obligations.WrongLengthRaisesLength : Prop :=
  ∀ (s : State) (p : Packet) (rest : List PortEvent) (i : Instr), s.port = .command p :: rest → i.WellFormed →
    p.header = (encode i).header → p.payload.length ≠ i.payloadWords →
    step s = .next (State.failing { s with port := rest } 2)

/-- R280: with nothing at the port the block holds its state. That a step exists then is the model's choice (log 5). -/
def Obligations.IdleBlockHoldsState : Prop :=
  ∀ s : State, s.port = [] → step s = .next s

/-- R290, R291, R292: a reset clears STATUS and every VALID, keeps the sizes of the context files, and gives no response; what is still
to come at the port and what was answered stay (the model's choice, logs 3 and 4). -/
def Obligations.ResetInputClears : Prop :=
  ∀ (s : State) (rest : List PortEvent), s.port = .reset :: rest →
    ∃ t, step s = .next t ∧ t.status.word = 0#32 ∧
      (∀ c ∈ t.ph, c.valid = false) ∧ (∀ c ∈ t.pf, c.valid = false) ∧ (∀ c ∈ t.pp, c.valid = false) ∧
      t.ph.length = s.ph.length ∧ t.pf.length = s.pf.length ∧ t.pp.length = s.pp.length ∧
      t.port = rest ∧ t.responses = s.responses

/-- R47: the reset values the spec gives, for any number of contexts and at the model's own `State.reset`: ERR = 0, ERRCODE = 0, every
VALID = 0. What R47 leaves unspecified no clause names. -/
def Obligations.ResetLeavesSpecValues : Prop :=
  (State.reset.status.err = false ∧ State.reset.status.errCode = 0 ∧ (∀ c ∈ State.reset.ph, c.valid = false) ∧
    (∀ c ∈ State.reset.pf, c.valid = false) ∧ (∀ c ∈ State.reset.pp, c.valid = false)) ∧
  ∀ nPH nPF nPP : Nat,
    (State.resetWith nPH nPF nPP).ph.length = nPH ∧ (State.resetWith nPH nPF nPP).pf.length = nPF ∧
    (State.resetWith nPH nPF nPP).pp.length = nPP ∧
    (State.resetWith nPH nPF nPP).status.err = false ∧ (State.resetWith nPH nPF nPP).status.errCode = 0 ∧
    (∀ i, i < nPH → ((State.resetWith nPH nPF nPP).ph[i]?).map (·.valid) = some false) ∧
    (∀ j, j < nPF → ((State.resetWith nPH nPF nPP).pf[j]?).map (·.valid) = some false) ∧
    (∀ k, k < nPP → ((State.resetWith nPH nPF nPP).pp[k]?).map (·.valid) = some false)

/-! The exception and STATUS. -/

/-- R270, R271, R39, R89: a command that answers either failed with one of the codes a decoded command can raise and changed nothing but
STATUS, or succeeded, left STATUS alone and gave one response with its row's result limbs. -/
def Obligations.CommandSucceedsOrOnlyFails : Prop :=
  ∀ (i : Instr) (s t : State), exec i s = .next t →
    (∃ e, 3 ≤ e ∧ e ≤ 7 ∧ t = s.failing e) ∨
    (∃ ws, ws.length = i.resultLimbs ∧ t.responses = s.responses ++ [⟨0, ws⟩] ∧ t.status = s.status ∧ t.port = s.port)

/-- R265, and the order of R264: an illegal L raises E_WIDTH whatever the context and the operands are, and nothing else raises it. -/
def Obligations.IllegalWidthRaisesWidth : Prop :=
  (∀ (i : Instr) (l : Nat) (s : State), i.widthOperand = some l → l = 0 ∨ i.maxWidth < l →
    exec i s = .next (s.failing 3)) ∧
  (∀ (i : Instr) (s : State), exec i s = .next (s.failing 3) →
    ∃ l, i.widthOperand = some l ∧ (l = 0 ∨ i.maxWidth < l))

/-- R266: with a legal L, a CTX at or above the size of the context file raises E_CTX whatever the operands are, and nothing else
raises it. -/
def Obligations.ContextOutOfRangeRaisesCtx : Prop :=
  (∀ (i : Instr) (n : ContextName) (s : State), i.WidthLegal → i.context = some n → ¬ ContextExists s n →
    exec i s = .next (s.failing 4)) ∧
  (∀ (i : Instr) (s : State), exec i s = .next (s.failing 4) → ∃ n, i.context = some n ∧ ¬ ContextExists s n)

/-- R267: a WRITE, ISDONE or FINISH with a legal L on a context whose VALID is 0 raises E_INVALID, and nothing else raises it;
a context whose VALID is 0 keeps it so until a NEW of its kind names it. -/
def Obligations.InvalidContextRaisesInvalid : Prop :=
  (∀ (i : Instr) (n : ContextName) (s : State), i.WidthLegal → i.isNew = false → i.context = some n →
    ContextInvalid s n → exec i s = .next (s.failing 5)) ∧
  (∀ (i : Instr) (s : State), exec i s = .next (s.failing 5) →
    ∃ n, i.isNew = false ∧ i.context = some n ∧ ContextInvalid s n) ∧
  (∀ (i : Instr) (n : ContextName) (s t : State), exec i s = .next t → ContextInvalid s n → ¬ ContextInvalid t n →
    i.isNew = true ∧ i.context = some n)

/-- R268: with L legal and the context there, an operand outside its domain raises E_DOMAIN; a command whose operands are in their
domains, and every command the table does not name, never does. -/
def Obligations.OperandOutsideDomainRaisesDomain : Prop :=
  (∀ (i : Instr) (s : State), i.WidthLegal → (∀ n, i.context = some n → ContextExists s n) → i.inDomain = false →
    exec i s = .next (s.failing 6)) ∧
  (∀ (i : Instr) (s : State), i.inDomain = true → exec i s ≠ .next (s.failing 6))

/-- R269: PF.WRITE on a valid filter that holds 32 words raises E_FULL, and nothing else raises it, PP.WRITE not either. -/
def Obligations.FullFilterRefusesWrite : Prop :=
  (∀ (s : State) (j : Nat) (f : PfContext) (x : BitVec 64), s.pf[j]? = some f → f.valid = true → f.buf.cur = 32 →
    exec (.pfWrite j x) s = .next (s.failing 7)) ∧
  (∀ (i : Instr) (s : State), exec i s = .next (s.failing 7) →
    ∃ j x f, i = .pfWrite j x ∧ s.pf[j]? = some f ∧ f.valid = true ∧ f.buf.cur = 32)

/-- R250, R39: STATUS returns ERR in bit 0, ERRCODE in bits 7:4 and zeros elsewhere, and changes nothing. -/
def Obligations.StatusReturnsRegister : Prop :=
  ∀ s : State, exec .status s =
    .next (s.answering [BitVec.ofNat 32 (16 * s.status.errCode.toNat + if s.status.err = true then 1 else 0)])

/-- R250, R39: after a failure with code `e` and any commands that all succeeded, STATUS returns `(e << 4) | 1`. -/
def Obligations.StatusKeepsLastFailure : Prop :=
  ∀ (s t : State) (e : Nat) (is : List Instr), 1 ≤ e → e ≤ 7 → execAll is (s.failing e) = .next t →
    (∀ r ∈ t.responses.drop (s.failing e).responses.length, r.status = 0) →
    exec .status t = .next (t.answering [BitVec.ofNat 32 (16 * e + 1)])

/-- R40, R272: no command but STATUS depends on what STATUS holds. -/
def Obligations.StatusNeverConsulted : Prop :=
  ∀ (i : Instr) (s t : State) (st : Status), i ≠ .status → exec i s = .next t →
    ∃ t', exec i (s.setStatus st) = .next t' ∧ t'.ph = t.ph ∧ t'.pf = t.pf ∧ t'.pp = t.pp ∧
      t'.responses = t.responses ∧ t'.port = t.port

/-! Unit 1: limb arithmetic. -/

/-- R111 and R114: the limb routines multiply and add exactly, into one limb more, and `n` limbs more; the partial sum of a step fits
64 bits. -/
def Obligations.LimbRoutinesAreExact : Prop :=
  (∀ a x d carry : Word, a.toNat * x.toNat + d.toNat + carry.toNat < 2 ^ 64) ∧
  (∀ (a d : List Word) (x : Word), a.length = 3 → d.length = 3 →
    (mul3x1Add3 a x d).length = 4 ∧ val (mul3x1Add3 a x d) = val a * x.toNat + val d ∧ val a * x.toNat + val d < 2 ^ 128) ∧
  (∀ a x d : List Word, a.length = 3 → d.length = 3 →
    (mul3xnAdd3 a x d).length = x.length + 3 ∧ val (mul3xnAdd3 a x d) = val a * val x + val d)

/-- R112, R113: MUL3X1 and MUL3X1A3 complete for every operand with the exact value in four limbs. -/
def Obligations.SingleLimbMultipliesAnswer : Prop :=
  ∀ (a d : BitVec 96) (x : BitVec 32) (s : State),
    exec (.mul3x1 a x) s = .next (s.answering (limbs 4 (a.toNat * x.toNat))) ∧
    exec (.mul3x1a3 a x d) s = .next (s.answering (limbs 4 (a.toNat * x.toNat + d.toNat)))

/-- R115, R116, R117: MUL3X2, MULADD and MUL3X3 complete for every operand with the exact value. -/
def Obligations.MultiLimbMultipliesAnswer : Prop :=
  ∀ (a b y : BitVec 96) (x : BitVec 64) (s : State),
    exec (.mul3x2 a x) s = .next (s.answering (limbs 5 (a.toNat * x.toNat))) ∧
    exec (.muladd a b x) s = .next (s.answering (limbs 5 (a.toNat * x.toNat + b.toNat))) ∧
    exec (.mul3x3 a y) s = .next (s.answering (limbs 6 (a.toNat * y.toNat)))

/-- R118: one conditional subtraction of `P89`, for every 3-limb value. -/
def Obligations.ConditionalSubtraction : Prop :=
  ∀ v : List Word, v.length = 3 →
    (condSubP v).length = 3 ∧ val (condSubP v) = if Config.p89 ≤ val v then val v - Config.p89 else val v

/-- R119: the split at bit 89 and the three cases of the result, for every operand in the routine's bounds. -/
def Obligations.ReductionThreeCases : Prop :=
  ∀ wide extra : List Word, wide.length = 6 → extra.length = 3 → val wide < 2 ^ 178 → val extra < 2 ^ 89 →
    val (lowPart wide) = val wide % 2 ^ 89 ∧ val (highPart wide) = val wide / 2 ^ 89 ∧
    (reduce6Add3 wide extra).length = 3 ∧
    val (reduce6Add3 wide extra) =
      (let S := val wide % 2 ^ 89 + val wide / 2 ^ 89 + val extra
       if S < Config.p89 then S else if S < 2 * Config.p89 then S - Config.p89 else S - 2 * Config.p89) ∧
    val (reduce6Add3 wide extra) ≡ val wide + val extra [MOD Config.p89]

/-- R121: in the domain the sum is at most `3·P89`; below that the result is the residue, at it the result is `P89`; and three conditions
each of which makes the result fully reduced. -/
def Obligations.ReductionCorrectness : Prop :=
  ∀ wide extra : List Word, wide.length = 6 → extra.length = 3 → val wide < 2 ^ 178 → val extra < 2 ^ 89 →
    let S := val wide % 2 ^ 89 + val wide / 2 ^ 89 + val extra
    let r := val (reduce6Add3 wide extra)
    S ≤ 3 * Config.p89 ∧
    (S ≤ 3 * Config.p89 - 1 → r = (val wide + val extra) % Config.p89 ∧ r < Config.p89) ∧
    (S = 3 * Config.p89 → r = Config.p89) ∧
    (val extra ≤ Config.p89 - 1 ∨ val wide / 2 ^ 89 ≤ Config.p89 - 1 ∨ val wide % 2 ^ 89 ≤ Config.p89 - 1 →
      r < Config.p89)

/-- R123: two conditional subtractions bring a sum of three summands, each at most `P89`, below `P89` exactly when the sum is at most
`3·P89 − 1`; for the triple of three `P89` they yield `P89`. -/
def Obligations.TwoSubtractionsSuffice : Prop :=
  (∀ c d e : Nat, c ≤ Config.p89 → d ≤ Config.p89 → e ≤ Config.p89 →
    (val (condSubP (condSubP (limbs 3 (c + d + e)))) < Config.p89 ↔ c + d + e ≤ 3 * Config.p89 - 1)) ∧
  val (condSubP (condSubP (limbs 3 (Config.p89 + Config.p89 + Config.p89)))) = Config.p89

/-- R120: RED6A3 raises E_DOMAIN outside its bounds and completes inside them with the result of the two subtractions. -/
def Obligations.ReduceCommandAnswers : Prop :=
  ∀ (wide : BitVec 192) (extra : BitVec 96) (s : State),
    (¬ (wide.toNat < 2 ^ 178 ∧ extra.toNat < 2 ^ 89) → exec (.red6a3 wide extra) s = .next (s.failing 6)) ∧
    (wide.toNat < 2 ^ 178 ∧ extra.toNat < 2 ^ 89 →
      exec (.red6a3 wide extra) s = .next (s.answering (limbs 3
        (let S := wide.toNat % 2 ^ 89 + wide.toNat / 2 ^ 89 + extra.toNat
         if S < Config.p89 then S else if S < 2 * Config.p89 then S - Config.p89 else S - 2 * Config.p89))))

/-- R122: MOD5 with a legal L completes for every 5-limb value with the residue modulo `P89`, masked. -/
def Obligations.Mod5Answers : Prop :=
  ∀ (l : Nat) (v : BitVec 160) (s : State),
    exec (.mod5 l v) s =
      .next (if l = 0 ∨ 88 < l then s.failing 3 else s.answering (limbs 3 (v.toNat % Config.p89 % 2 ^ l)))

/-! Unit 2: multiply-mod-prime. -/

/-- R141: for `y ≤ (p − 1)·p`, as every in-domain product-sum is, the fold with one subtraction is the residue. -/
def Obligations.FoldIsResidue : Prop :=
  ∀ k : Nat, k = 31 ∨ k = 61 →
    (∀ y : Nat, y ≤ (2 ^ k - 2) * (2 ^ k - 1) → fold k y = y % (2 ^ k - 1)) ∧
    (∀ a b x : Nat, a < 2 ^ k - 1 → b < 2 ^ k - 1 → x < 2 ^ k - 1 → a * x + b ≤ (2 ^ k - 2) * (2 ^ k - 1))

/-- R142, R143: MMP31 and MMP61, every outcome: E_WIDTH, then E_DOMAIN, then the hash. -/
def Obligations.SmallPrimeHashesAnswer : Prop :=
  (∀ (l : Nat) (a b x : BitVec 32) (s : State),
    exec (.mmp31 l a b x) s =
      .next (if l = 0 ∨ 30 < l then s.failing 3
        else if Config.p31 ≤ a.toNat ∨ Config.p31 ≤ b.toNat ∨ Config.p31 ≤ x.toNat then s.failing 6
        else s.answering (limbs 1 ((a.toNat * x.toNat + b.toNat) % Config.p31 % 2 ^ l)))) ∧
  (∀ (l : Nat) (a b x : BitVec 64) (s : State),
    exec (.mmp61 l a b x) s =
      .next (if l = 0 ∨ 60 < l then s.failing 3
        else if Config.p61 ≤ a.toNat ∨ Config.p61 ≤ b.toNat ∨ Config.p61 ≤ x.toNat then s.failing 6
        else s.answering (limbs 2 ((a.toNat * x.toNat + b.toNat) % Config.p61 % 2 ^ l))))

/-- R144: MMP89, every outcome; the limb data path gives the closed form. -/
def Obligations.LargePrimeHashAnswers : Prop :=
  ∀ (l : Nat) (a b : BitVec 96) (x : BitVec 64) (s : State),
    exec (.mmp89 l a b x) s =
      .next (if l = 0 ∨ 88 < l then s.failing 3
        else if Config.p89 ≤ a.toNat ∨ Config.p89 ≤ b.toNat then s.failing 6
        else s.answering (limbs 3 ((a.toNat * x.toNat + b.toNat) % Config.p89 % 2 ^ l)))

/-- R145: adding `b` in the multiply and adding it in the reduction give the same limbs, the exact residue. -/
def Obligations.TwoDataPathsAgree : Prop :=
  ∀ (a b : BitVec 96) (x : BitVec 64), a.toNat < Config.p89 → b.toNat < Config.p89 →
    reduce6Add3 (mul3xnAdd3 (operandWords a) (operandWords x) (operandWords b) ++ [0]) zero3 =
      reduce6Add3 (mul3xnAdd3 (operandWords a) (operandWords x) zero3 ++ [0]) (operandWords b) ∧
    val (reduce6Add3 (mul3xnAdd3 (operandWords a) (operandWords x) (operandWords b) ++ [0]) zero3) =
      (a.toNat * x.toNat + b.toNat) % Config.p89

/-- R146: MMP31X3, every outcome: three hashes of the slices `x[29:0]`, `x[59:30]`, `x[63:60]`, joined by exclusive or. -/
def Obligations.TripleHashAnswers : Prop :=
  ∀ (l : Nat) (a0 b0 a1 b1 a2 b2 : BitVec 32) (x : BitVec 64) (s : State),
    exec (.mmp31x3 l a0 b0 a1 b1 a2 b2 x) s =
      .next (if l = 0 ∨ 30 < l then s.failing 3
        else if Config.p31 ≤ a0.toNat ∨ Config.p31 ≤ b0.toNat ∨ Config.p31 ≤ a1.toNat ∨ Config.p31 ≤ b1.toNat ∨
          Config.p31 ≤ a2.toNat ∨ Config.p31 ≤ b2.toNat then s.failing 6
        else s.answering (limbs 1
          (((a0.toNat * (x.toNat % 2 ^ 30) + b0.toNat) % Config.p31 % 2 ^ l) ^^^
            ((a1.toNat * (x.toNat / 2 ^ 30 % 2 ^ 30) + b1.toNat) % Config.p31 % 2 ^ l) ^^^
            ((a2.toNat * (x.toNat / 2 ^ 60) + b2.toNat) % Config.p31 % 2 ^ l))))

/-- R90, R147, R167: whatever hash command succeeds, its result is below `2^L`. -/
def Obligations.DigestsBelowTwoToL : Prop :=
  ∀ (i : Instr) (l : Nat) (s t : State) (ws : List Word), i.widthOperand = some l → exec i s = .next t →
    t.responses = s.responses ++ [⟨0, ws⟩] → val ws < 2 ^ l

/-! Unit 3: multiply-shift. -/

/-- R161, R162, R163: the plain multiply-shift commands, every outcome. -/
def Obligations.PlainMultiplyShiftAnswers : Prop :=
  (∀ (l : Nat) (a x : BitVec 32) (s : State), exec (.ms32 l a x) s =
    .next (if l = 0 ∨ 32 < l then s.failing 3
      else s.answering (limbs 1 (a.toNat * x.toNat % 2 ^ 32 / 2 ^ (32 - l))))) ∧
  (∀ (l : Nat) (a x : BitVec 64) (s : State), exec (.ms64 l a x) s =
    .next (if l = 0 ∨ 64 < l then s.failing 3
      else s.answering (limbs 2 (a.toNat * x.toNat % 2 ^ 64 / 2 ^ (64 - l))))) ∧
  (∀ (l : Nat) (a x : BitVec 128) (s : State), exec (.ms128 l a x) s =
    .next (if l = 0 ∨ 128 < l then s.failing 3
      else s.answering (limbs 4 (a.toNat * x.toNat % 2 ^ 128 / 2 ^ (128 - l)))))

/-- R164, R165, R166: the affine multiply-shift commands, every outcome. -/
def Obligations.StrongMultiplyShiftAnswers : Prop :=
  (∀ (l : Nat) (a b : BitVec 64) (x : BitVec 32) (s : State), exec (.mss32 l a b x) s =
    .next (if l = 0 ∨ 32 < l then s.failing 3
      else s.answering (limbs 1 ((a.toNat * x.toNat + b.toNat) % 2 ^ 64 / 2 ^ (64 - l))))) ∧
  (∀ (l : Nat) (a b : BitVec 128) (x : BitVec 64) (s : State), exec (.mss64 l a b x) s =
    .next (if l = 0 ∨ 64 < l then s.failing 3
      else s.answering (limbs 2 ((a.toNat * x.toNat + b.toNat) % 2 ^ 128 / 2 ^ (128 - l))))) ∧
  (∀ (l : Nat) (a b : BitVec 256) (x : BitVec 128) (s : State), exec (.mss128 l a b x) s =
    .next (if l = 0 ∨ 128 < l then s.failing 3
      else s.answering (limbs 4 ((a.toNat * x.toNat + b.toNat) % 2 ^ 256 / 2 ^ (256 - l)))))

/-! Unit 4: vector block and pair filter. -/

/-- R181: VDOT, every outcome; the sum over all 64 lanes. -/
def Obligations.DotProductAnswers : Prop :=
  ∀ (l : Nat) (a : Keys) (b : Key) (x : Lanes) (s : State), exec (.vdot l a b x) s =
    .next (if l = 0 ∨ 32 < l then s.failing 3
      else s.answering (limbs 1
        ((b.toNat + ∑ i : Fin 64, (a[i]).toNat * (x[i]).toNat) % 2 ^ 64 / 2 ^ (64 - l))))

/-- R182: VDOTP, every outcome; 32 products of crossed pairs, written as a sum over the pair index. -/
def Obligations.PairedDotProductAnswers : Prop :=
  ∀ (l : Nat) (a : Keys) (b : Key) (x : Lanes) (s : State), exec (.vdotp l a b x) s =
    .next (if l = 0 ∨ 32 < l then s.failing 3
      else s.answering (limbs 1
        ((b.toNat + ∑ i : Fin 32,
            ((a[2 * i.val]).toNat + (x[2 * i.val + 1]).toNat) * ((a[2 * i.val + 1]).toNat + (x[2 * i.val]).toNat))
          % 2 ^ 64 / 2 ^ (64 - l))))

/-- R183, R188, R190, R191: PF.NEW configures and empties; PF.ISDONE answers 1 exactly at CUR = 32; PF.FINISH returns the top L bits of
`KB + SUM` and empties the buffer; each leaves all else as it was. -/
def Obligations.PairFilterCommandsAnswer : Prop :=
  (∀ (j : Nat) (k : Keys) (kb : Key) (s : State), j < s.pf.length →
    exec (.pfNew j k kb) s = .next (State.answering { s with pf := s.pf.set j ⟨true, ⟨k, kb, 0, 0⟩⟩ } [])) ∧
  (∀ (j : Nat) (f : PfContext) (s : State), s.pf[j]? = some f → f.valid = true →
    exec (.pfIsdone j) s = .next (s.answering [if f.buf.cur = 32 then 1#32 else 0#32])) ∧
  (∀ (j l : Nat) (f : PfContext) (s : State), 1 ≤ l → l ≤ 32 → s.pf[j]? = some f → f.valid = true →
    exec (.pfFinish j l) s =
      .next (State.answering { s with pf := s.pf.set j ⟨true, { f.buf with sum := 0, cur := 0 }⟩ }
        (limbs 1 ((f.buf.kb.toNat + f.buf.sum.toNat) % 2 ^ 64 / 2 ^ (64 - l)))))

/-- R186, R187: PF.WRITE below capacity adds the product of the crossed pair to SUM and moves CUR on by one; keys and all else stay. -/
def Obligations.PairFilterWriteAccumulates : Prop :=
  ∀ (j : Nat) (f : PfContext) (x : BitVec 64) (s : State) (h : f.buf.cur < 32), s.pf[j]? = some f → f.valid = true →
    exec (.pfWrite j x) s = .next (State.answering { s with pf := s.pf.set j ⟨true, { f.buf with
      sum := BitVec.ofNat 64 (f.buf.sum.toNat +
        ((f.buf.k[2 * f.buf.cur]'(by omega)).toNat + x.toNat / 2 ^ 32) *
          ((f.buf.k[2 * f.buf.cur + 1]'(by omega)).toNat + x.toNat % 2 ^ 32))
      cur := f.buf.cur + 1 }⟩ } [])

/-- R192: PF.NEW, up to 32 writes and PF.FINISH return the paired hash of the words written; with 32 words that is the value VDOTP returns
for the same keys and lanes. -/
def Obligations.FilterAgreesWithOneShot : Prop :=
  (∀ (s : State) (j l : Nat) (k : Keys) (kb : Key) (ws : List (BitVec 64)), j < s.pf.length → 1 ≤ l → l ≤ 32 →
    ws.length ≤ 32 →
    ∃ t, execAll (.pfNew j k kb :: ws.map (.pfWrite j) ++ [.pfFinish j l]) s = .next t ∧
      t.responses = s.responses ++ List.replicate (ws.length + 1) ⟨0, []⟩ ++ [⟨0, limbs 1 (pairHash k kb ws l)⟩]) ∧
  (∀ (s : State) (l : Nat) (k : Keys) (kb : Key) (ws : List (BitVec 64)) (x : Lanes), 1 ≤ l → l ≤ 32 →
    ws.length = 32 →
    (∀ i : Fin 32, (x[2 * i.val]).toNat = (ws.getD i.val 0).toNat % 2 ^ 32 ∧
      (x[2 * i.val + 1]).toNat = (ws.getD i.val 0).toNat / 2 ^ 32) →
    exec (.vdotp l k kb x) s = .next (s.answering (limbs 1 (pairHash k kb ws l))))

/-! Unit 5: polynomial hasher. -/

/-- R211, R212, R213, R214, R215: PH.NEW stores the coefficients and a zero state; PH.WRITE takes the state to `(c·state + x) mod P89`;
PH.FINISH returns `((a·state + b) mod P89) mod 2^L` and clears the state; each leaves all else as it was. -/
def Obligations.PolynomialHasherCommandsAnswer : Prop :=
  (∀ (i : Nat) (a b c : BitVec 96) (s : State), i < s.ph.length →
    a.toNat < Config.p89 → b.toNat < Config.p89 → c.toNat < Config.p89 →
    exec (.phNew i a b c) s =
      .next (State.answering { s with ph := s.ph.set i ⟨true, a.setWidth 89, b.setWidth 89, c.setWidth 89, 0⟩ } [])) ∧
  (∀ (i : Nat) (h : PhContext) (x : BitVec 64) (s : State), s.ph[i]? = some h → h.valid = true →
    exec (.phWrite i x) s =
      .next (State.answering { s with ph := s.ph.set i { h with
        state := BitVec.ofNat 89 ((h.c.toNat * h.state.toNat + x.toNat) % Config.p89) } } [])) ∧
  (∀ (i l : Nat) (h : PhContext) (s : State), 1 ≤ l → l ≤ 88 → s.ph[i]? = some h → h.valid = true →
    exec (.phFinish i l) s =
      .next (State.answering { s with ph := s.ph.set i { h with state := 0 } }
        (limbs 3 ((h.a.toNat * h.state.toNat + h.b.toNat) % Config.p89 % 2 ^ l))))

/-- R216: for field elements below `P89` the limb routines give exactly the closed forms the commands use. -/
def Obligations.LimbRealisationOfHasher : Prop :=
  (∀ (c state : FieldElement) (x : BitVec 64), c.toNat < Config.p89 → state.toNat < Config.p89 →
    phWriteLimbs c state x = (phWrite c state x).toNat) ∧
  (∀ (a b state : FieldElement) (l : Nat), a.toNat < Config.p89 → b.toNat < Config.p89 → state.toNat < Config.p89 →
    1 ≤ l → l ≤ 88 → phFinishLimbs a b state l = phFinish a b state l)

/-- R217: after PH.NEW and the writes of any words, the state is the polynomial of the words at `c` modulo `P89`, and PH.FINISH returns
its affine image, masked. -/
def Obligations.HornerClosedForm : Prop :=
  ∀ (s : State) (i l : Nat) (a b c : BitVec 96) (xs : List (BitVec 64)), i < s.ph.length →
    a.toNat < Config.p89 → b.toNat < Config.p89 → c.toNat < Config.p89 → 1 ≤ l → l ≤ 88 →
    ∃ t u, execAll (.phNew i a b c :: xs.map (.phWrite i)) s = .next t ∧
      (t.ph[i]?).map (·.state.toNat) = some (polynomial c.toNat xs % Config.p89) ∧
      exec (.phFinish i l) t = .next u ∧
      u.responses = s.responses ++ List.replicate (xs.length + 1) ⟨0, []⟩ ++
        [⟨0, limbs 3 ((a.toNat * (polynomial c.toNat xs % Config.p89) + b.toNat) % Config.p89 % 2 ^ l)⟩]

/-! Unit 6: pipeline. -/

/-- R231, R236: PP.NEW writes every field of the context; PP.FINISH flushes exactly when a word is buffered, returns the hasher's digest
and leaves the context empty. -/
def Obligations.PipelineNewAndFinishAnswer : Prop :=
  (∀ (n : Nat) (a b c : BitVec 96) (k0 : Keys) (kb0 : Key) (k1 : Keys) (kb1 : Key) (s : State), n < s.pp.length →
    a.toNat < Config.p89 → b.toNat < Config.p89 → c.toNat < Config.p89 →
    exec (.ppNew n a b c k0 kb0 k1 kb1) s =
      .next (State.answering { s with
        pp := s.pp.set n ⟨true, a.setWidth 89, b.setWidth 89, c.setWidth 89, 0, ⟨k0, kb0, 0, 0⟩, ⟨k1, kb1, 0, 0⟩⟩ } [])) ∧
  (∀ (n l : Nat) (q : PpContext) (s : State), 1 ≤ l → l ≤ 88 → s.pp[n]? = some q → q.valid = true → q.Ok →
    exec (.ppFinish n l) s =
      .next (State.answering
        { s with pp := s.pp.set n { q with
            state := 0, f0 := { q.f0 with sum := 0, cur := 0 }, f1 := { q.f1 with sum := 0, cur := 0 } } }
        (limbs 3 ((q.a.toNat *
          (if q.f0.cur = 0 then q.state.toNat
            else (q.c.toNat * q.state.toNat + ((q.f0.kb.toNat + q.f0.sum.toNat) % 2 ^ 64 / 2 ^ 32 +
              2 ^ 32 * ((q.f1.kb.toNat + q.f1.sum.toNat) % 2 ^ 64 / 2 ^ 32))) % Config.p89)
          + q.b.toNat) % Config.p89 % 2 ^ l))))

/-- R232, R233, R234, R235: PP.WRITE in lock-step, on a pipeline whose cursors agree and are at most 32. Below capacity both filters take
the word; at capacity the packed filter values go to the hasher first and the word is the first of the next block. -/
def Obligations.PipelineWriteAnswers : Prop :=
  ∀ (n : Nat) (q : PpContext) (x : BitVec 64) (s : State), s.pp[n]? = some q → q.valid = true →
    q.f0.cur = q.f1.cur → q.f0.cur ≤ 32 →
    let base0 : FilterBuffer := if q.f0.cur = 32 then { q.f0 with sum := 0, cur := 0 } else q.f0
    let base1 : FilterBuffer := if q.f0.cur = 32 then { q.f1 with sum := 0, cur := 0 } else q.f1
    let state' : FieldElement := if q.f0.cur = 32 then
        BitVec.ofNat 89 ((q.c.toNat * q.state.toNat + ((q.f0.kb.toNat + q.f0.sum.toNat) % 2 ^ 64 / 2 ^ 32 +
          2 ^ 32 * ((q.f1.kb.toNat + q.f1.sum.toNat) % 2 ^ 64 / 2 ^ 32))) % Config.p89)
      else q.state
    let term (f : FilterBuffer) : Nat :=
      ((f.k[2 * f.cur]?.getD 0).toNat + x.toNat / 2 ^ 32) * ((f.k[2 * f.cur + 1]?.getD 0).toNat + x.toNat % 2 ^ 32)
    exec (.ppWrite n x) s =
      .next (State.answering { s with pp := s.pp.set n { q with
        state := state'
        f0 := { base0 with sum := BitVec.ofNat 64 (base0.sum.toNat + term base0), cur := base0.cur + 1 }
        f1 := { base1 with sum := BitVec.ofNat 64 (base1.sum.toNat + term base1), cur := base1.cur + 1 } } } [])

/-- R237, R238: the pipeline's digest of any words is the digest a stand-alone polynomial hasher with the same `(a, b, c)` gives of the
combined words, one for each block of up to 32 words, `ceil(n/32)` of them. -/
def Obligations.PipelineIsHasherOfCombinedWords : Prop :=
  ∀ (s : State) (n i l : Nat) (a b c : BitVec 96) (k0 : Keys) (kb0 : Key) (k1 : Keys) (kb1 : Key)
    (xs : List (BitVec 64)), n < s.pp.length → i < s.ph.length →
    a.toNat < Config.p89 → b.toNat < Config.p89 → c.toNat < Config.p89 → 1 ≤ l → l ≤ 88 →
    (blocks xs).length = (xs.length + 31) / 32 ∧ (blocks xs).flatten = xs ∧
    ∃ t u ws,
      execAll (.ppNew n a b c k0 kb0 k1 kb1 :: xs.map (.ppWrite n) ++ [.ppFinish n l]) s = .next t ∧
      execAll (.phNew i a b c :: (blocks xs).map (fun block => .phWrite i (combinedWord k0 kb0 k1 kb1 block)) ++
        [.phFinish i l]) s = .next u ∧
      t.responses.getLast? = some ⟨0, ws⟩ ∧ u.responses.getLast? = some ⟨0, ws⟩

/-! All commands. -/

/-- R42: a context after any writes and a FINISH equals the context right after the NEW that configured it, for each of the three kinds. -/
def Obligations.FinishRestoresFreshContext : Prop :=
  (∀ (s u t : State) (i l : Nat) (a b c : BitVec 96) (xs : List (BitVec 64)), i < s.ph.length →
    a.toNat < Config.p89 → b.toNat < Config.p89 → c.toNat < Config.p89 → 1 ≤ l → l ≤ 88 →
    exec (.phNew i a b c) s = .next u → execAll (xs.map (.phWrite i) ++ [.phFinish i l]) u = .next t →
    t.ph = u.ph) ∧
  (∀ (s u t : State) (j l : Nat) (k : Keys) (kb : Key) (xs : List (BitVec 64)), j < s.pf.length → 1 ≤ l → l ≤ 32 →
    exec (.pfNew j k kb) s = .next u → execAll (xs.map (.pfWrite j) ++ [.pfFinish j l]) u = .next t →
    t.pf = u.pf) ∧
  (∀ (s u t : State) (n l : Nat) (a b c : BitVec 96) (k0 : Keys) (kb0 : Key) (k1 : Keys) (kb1 : Key)
    (xs : List (BitVec 64)), n < s.pp.length →
    a.toNat < Config.p89 → b.toNat < Config.p89 → c.toNat < Config.p89 → 1 ≤ l → l ≤ 88 →
    exec (.ppNew n a b c k0 kb0 k1 kb1) s = .next u → execAll (xs.map (.ppWrite n) ++ [.ppFinish n l]) u = .next t →
    t.pp = u.pp)

/-- R43, R46: a command leaves every context but the one it names exactly as it was, and a command that names none leaves all. -/
def Obligations.OtherContextsUntouched : Prop :=
  ∀ (i : Instr) (s t : State) (n : ContextName), exec i s = .next t → i.context ≠ some n → SameContext s t n

/-- R43, R45, R46: what a command answers and what it makes of its context depend on its operands, the context it names and, for STATUS,
the STATUS register only. -/
def Obligations.AnswerDependsOnNamedContext : Prop :=
  ∀ (i : Instr) (s t s' : State), (i = .status → s.status = t.status) →
    s.ph.length = t.ph.length → s.pf.length = t.pf.length → s.pp.length = t.pp.length →
    (∀ n, i.context = some n → SameContext s t n) → exec i s = .next s' →
    ∃ t' r, exec i t = .next t' ∧ s'.responses = s.responses ++ [r] ∧ t'.responses = t.responses ++ [r] ∧
      (∀ n, i.context = some n → SameContext s' t' n)

/-- R41: no command but a NEW changes a coefficient or a key of any context. -/
def Obligations.OnlyNewWritesCoefficients : Prop :=
  ∀ (i : Instr) (s t : State), exec i s = .next t → i.isNew = false →
    t.ph.map PhContext.coefficients = s.ph.map PhContext.coefficients ∧
    t.pf.map PfContext.coefficients = s.pf.map PfContext.coefficients ∧
    t.pp.map PpContext.coefficients = s.pp.map PpContext.coefficients

/-- R33: no command clears a VALID bit, and none but a NEW sets one. -/
def Obligations.ValidIsSetByNewOnly : Prop :=
  ∀ (i : Instr) (s t : State), exec i s = .next t →
    (∀ (n : Nat) (c : PhContext), s.ph[n]? = some c → c.valid = true → ∃ d, t.ph[n]? = some d ∧ d.valid = true) ∧
    (∀ (n : Nat) (c : PfContext), s.pf[n]? = some c → c.valid = true → ∃ d, t.pf[n]? = some d ∧ d.valid = true) ∧
    (∀ (n : Nat) (c : PpContext), s.pp[n]? = some c → c.valid = true → ∃ d, t.pp[n]? = some d ∧ d.valid = true) ∧
    (i.isNew = false → t.ph.map (·.valid) = s.ph.map (·.valid) ∧ t.pf.map (·.valid) = s.pf.map (·.valid) ∧
      t.pp.map (·.valid) = s.pp.map (·.valid))

/-- R8, R35, R37, R38, R39: every step keeps the invariant of the block, from every state that meets it. -/
def Obligations.StepKeepsInvariant : Prop :=
  ∀ s t : State, s.Inv → step s = .next t → t.Inv

/-- The invariant holds right after reset, for every legal number of contexts, and at `State.reset` with the model's own numbers
(log 1). -/
def Obligations.ResetMeetsInvariant : Prop :=
  (∀ nPH nPF nPP : Nat, 1 ≤ nPH → nPH ≤ 16 → 1 ≤ nPF → nPF ≤ 16 → 1 ≤ nPP → nPP ≤ 16 →
    (State.resetWith nPH nPF nPP).Inv) ∧ State.reset.Inv

/-- R260, R61: from a state that meets the invariant a step always answers: no key slot outside the store is ever read, nothing halts. -/
def Obligations.ValidStateAlwaysAnswers : Prop :=
  ∀ s : State, s.Inv → ∃ t, step s = .next t

/-- R71, R80, R301: from a state that meets the invariant, `n` pending packets, whatever they hold, are all served in `n` steps: after
`k` of them the first `k` packets are taken, there are `k` responses more, and those given before stand. The port and the list of
responses are the model's choice (log 4). -/
def Obligations.RunAnswersEveryPacket : Prop :=
  ∀ (s : State) (ps : List Packet) (k : Nat), s.Inv → s.port = ps.map .command → k ≤ ps.length →
    ∃ t, Host.Core.run Sys2Proof.core k s = .next t ∧ t.port = (ps.drop k).map .command ∧
      t.responses.length = s.responses.length + k ∧ t.responses.take s.responses.length = s.responses

/-- R291, R47: the fields of contexts that are not valid cannot be observed: from two states that differ in those only, a step gives the
same responses and the same STATUS, and leaves two states that again differ in those only. -/
def Obligations.UnspecifiedContentsUnobservable : Prop :=
  ∀ s t s' : State, s.Alike t → step s = .next s' → ∃ t', step t = .next t' ∧ s'.Alike t'
end

