-- ==== Sys2Proof/Laws/Limbs.lean ====
section
/-! SUPPORT. The laws of limb vectors: `val` and `limbs_n` undo each other (00_scope.md R11). -/

namespace Sys2Proof

@[simp] theorem val_nil : val [] = 0 := rfl

@[simp] theorem val_cons (w : Word) (ws : List Word) : val (w :: ws) = w.toNat + 2 ^ 32 * val ws := rfl

@[simp] theorem limbs_length (n v : Nat) : (limbs n v).length = n := by
  induction n generalizing v with
  | zero => rfl
  | succ n ih => simp [limbs, ih]

theorem val_lt (ws : List Word) : val ws < 2 ^ (32 * ws.length) := by
  induction ws with
  | nil => simp
  | cons w ws ih =>
    have hw := w.isLt
    rw [val_cons, List.length_cons, Nat.mul_add, Nat.pow_add, Nat.mul_comm (2 ^ (32 * ws.length))]
    calc w.toNat + 2 ^ 32 * val ws < 2 ^ 32 + 2 ^ 32 * val ws := by omega
      _ = 2 ^ 32 * (val ws + 1) := by ring
      _ ≤ 2 ^ (32 * 1) * 2 ^ (32 * ws.length) := Nat.mul_le_mul_left _ ih

theorem val_append (xs ys : List Word) : val (xs ++ ys) = val xs + 2 ^ (32 * xs.length) * val ys := by
  induction xs with
  | nil => simp
  | cons x xs ih =>
    rw [List.cons_append, val_cons, val_cons, ih, List.length_cons, Nat.mul_add, Nat.mul_add, Nat.pow_add]
    ring

theorem val_limbs (n v : Nat) : val (limbs n v) = v % 2 ^ (32 * n) := by
  induction n generalizing v with
  | zero => simp [limbs, Nat.mod_one]
  | succ n ih =>
    rw [limbs, val_cons, ih, BitVec.toNat_ofNat, Nat.mul_add, Nat.mul_one, Nat.add_comm (32 * n), Nat.pow_add,
      Nat.mod_mul]

theorem limbs_val (ws : List Word) : limbs ws.length (val ws) = ws := by
  induction ws with
  | nil => rfl
  | cons w ws ih =>
    have hw := w.isLt
    have hm : (w.toNat + 2 ^ 32 * val ws) / 2 ^ 32 = val ws := by omega
    rw [List.length_cons, limbs, val_cons, hm, ih]
    congr 1
    apply BitVec.eq_of_toNat_eq
    rw [BitVec.toNat_ofNat]
    omega

/-- A limb vector is determined by its length and its value. -/
theorem eq_limbs {ws : List Word} {n v : Nat} (hl : ws.length = n) (hv : val ws = v) : ws = limbs n v := by
  rw [← hl, ← hv, limbs_val]

@[simp] theorem operandWords_length {w : Nat} (v : BitVec w) : (operandWords v).length = w / 32 := limbs_length _ _

theorem keysWords_length (k : Keys) : (keysWords k).length = 128 := by
  have h : ∀ l : List Key, (l.flatMap operandWords).length = 2 * l.length := by
    intro l
    induction l with
    | nil => rfl
    | cons a l ih => simp [ih]; omega
  simp [keysWords, h]

theorem lanesWords_length (x : Lanes) : (lanesWords x).length = 64 := by
  have h : ∀ l : List Word, (l.flatMap operandWords).length = l.length := by
    intro l
    induction l with
    | nil => rfl
    | cons a l ih => simp [ih]; omega
  simp [lanesWords, h]

/-- An operand whose width is whole limbs has the value of its words. -/
theorem val_operandWords {w : Nat} (h : 32 * (w / 32) = w) (v : BitVec w) : val (operandWords v) = v.toNat := by
  rw [operandWords, val_limbs, h, Nat.mod_eq_of_lt v.isLt]

end Sys2Proof
end

