-- ==== Sys2Proof/Laws/Decode.lean ====
section
/-! SUPPORT. The laws of the decoder's parts: an operand cut from a payload is the operand the encoder wrote there (30_encoding.md R85),
and what each of the four masks asks of a header (R86), as arithmetic on the header's number. -/

namespace Sys2Proof

/-- An operand is read back from where its words stand in a payload. -/
theorem operandAt_operandWords {w : Nat} (h : 32 * (w / 32) = w) (v : BitVec w) (before after : List Word) {start : Nat}
    (hs : start = before.length) : operandAt w (before ++ operandWords v ++ after) start = v := by
  subst hs
  have e : ((before ++ operandWords v ++ after).drop before.length).take (w / 32) = operandWords v := by
    rw [List.append_assoc, List.drop_left, ← operandWords_length v, List.take_left]
  rw [operandAt, e, val_operandWords h, BitVec.ofNat_toNat, BitVec.setWidth_eq]

/-- The words of an operand cut from a payload are the payload's words there. -/
theorem operandWords_operandAt {w : Nat} (h : 32 * (w / 32) = w) {ws : List Word} {start : Nat}
    (hs : start + w / 32 ≤ ws.length) : operandWords (operandAt w ws start) = (ws.drop start).take (w / 32) := by
  have hl : ((ws.drop start).take (w / 32)).length = w / 32 := by simp; omega
  have hv := val_lt ((ws.drop start).take (w / 32))
  have e := limbs_val ((ws.drop start).take (w / 32))
  rw [hl] at hv e
  rw [h] at hv
  rw [operandWords, operandAt, BitVec.toNat_ofNat, Nat.mod_eq_of_lt hv]
  exact e

/-- Dropping the words of the first `i` elements of an array leaves the words of the others, `n` words an element. -/
theorem drop_flatMap_operandWords {w n : Nat} (hn : w / 32 = n) (l : List (BitVec w)) (i : Nat) :
    (l.flatMap operandWords).drop (n * i) = (l.drop i).flatMap operandWords := by
  induction i generalizing l with
  | zero => simp
  | succ i ih =>
    cases l with
    | nil => simp
    | cons a l =>
      have ha : (operandWords a).length = n := by rw [operandWords_length, hn]
      rw [List.flatMap_cons, List.drop_succ_cons, ← ih, Nat.mul_succ, List.drop_append, ha,
        List.drop_eq_nil_of_le (by rw [ha]; omega), List.nil_append, Nat.add_sub_cancel]

/-- The words of an array, cut around element `i`. -/
theorem flatMap_operandWords_split {w n : Nat} (hn : w / 32 = n) (l : List (BitVec w)) {i : Nat} (hi : i < l.length) :
    l.flatMap operandWords =
      (l.flatMap operandWords).take (n * i) ++ (operandWords l[i] ++ (l.flatMap operandWords).drop (n * (i + 1))) := by
  conv_lhs => rw [← List.take_append_drop (n * i) (l.flatMap operandWords)]
  rw [drop_flatMap_operandWords hn, drop_flatMap_operandWords hn, List.drop_eq_getElem_cons hi, List.flatMap_cons]

/-- A key array is read back from where its words stand in a payload. -/
theorem keysAt_keysWords (k : Keys) (before after : List Word) {start : Nat} (hs : start = before.length) :
    keysAt (before ++ keysWords k ++ after) start = k := by
  subst hs
  apply Vector.ext
  intro i hi
  have e := flatMap_operandWords_split (n := 2) (by norm_num) k.toList (i := i) (by simpa using hi)
  have hl := keysWords_length k
  rw [keysWords] at hl
  rw [keysAt, Vector.getElem_ofFn, keysWords, e, ← List.append_assoc, ← List.append_assoc, List.append_assoc]
  rw [operandAt_operandWords (by norm_num)]
  · simp
  · simp [hl]; omega

/-- A lane array is read back from where its words stand in a payload. -/
theorem lanesAt_lanesWords (x : Lanes) (before after : List Word) {start : Nat} (hs : start = before.length) :
    lanesAt (before ++ lanesWords x ++ after) start = x := by
  subst hs
  apply Vector.ext
  intro i hi
  have e := flatMap_operandWords_split (n := 1) (by norm_num) x.toList (i := i) (by simpa using hi)
  have hl := lanesWords_length x
  rw [lanesWords] at hl
  rw [lanesAt, Vector.getElem_ofFn, lanesWords, e, ← List.append_assoc, ← List.append_assoc, List.append_assoc]
  rw [operandAt_operandWords (by norm_num)]
  · simp
  · simp [hl]; omega

/-- The number of a word put together from the four header fields (R81). -/
theorem toNat_headerFields (rsv : BitVec 12) (ctx : BitVec 4) (l opc : BitVec 8) :
    (rsv ++ ctx ++ l ++ opc : Word).toNat = opc.toNat + 256 * l.toNat + 65536 * ctx.toNat + 1048576 * rsv.toNat := by
  have h2 := ctx.isLt
  have h3 := l.isLt
  have h4 := opc.isLt
  simp only [BitVec.toNat_append]
  rw [← Nat.shiftLeft_add_eq_or_of_lt h4, ← Nat.shiftLeft_add_eq_or_of_lt h3, ← Nat.shiftLeft_add_eq_or_of_lt h2]
  simp only [Nat.shiftLeft_eq]
  ring

/-- A header under a mask that keeps OPC and RSV whole, and keeps or clears CTX and L. -/
theorem and_fieldMask (h : Word) {c : BitVec 4} {l : BitVec 8} (hc : c = 0#4 ∨ c = BitVec.allOnes 4)
    (hl : l = 0#8 ∨ l = BitVec.allOnes 8) :
    h &&& (BitVec.allOnes 12 ++ c ++ l ++ BitVec.allOnes 8 : Word) =
      (h.extractLsb' 20 12 ++ (if c = 0#4 then 0#4 else h.extractLsb' 16 4) ++
        (if l = 0#8 then 0#8 else h.extractLsb' 8 8) ++ h.extractLsb' 0 8 : Word) := by
  rcases hc with rfl | rfl <;> rcases hl with rfl | rfl <;>
    simp only [show ¬ (BitVec.allOnes 8 = 0#8) by decide, show ¬ (BitVec.allOnes 4 = 0#4) by decide, if_true, if_false] <;>
    apply BitVec.eq_of_getLsbD_eq <;> intro i hi <;> rw [BitVec.getLsbD_and] <;>
    simp only [BitVec.getLsbD_append, BitVec.getLsbD_extractLsb', BitVec.getLsbD_allOnes] <;> interval_cases i <;> norm_num

/-- The masked header as a number. -/
theorem beq_fieldMask (h p : Word) {m : Word} {c : BitVec 4} {l : BitVec 8}
    (hm : m = BitVec.allOnes 12 ++ c ++ l ++ BitVec.allOnes 8) (hc : c = 0#4 ∨ c = BitVec.allOnes 4)
    (hl : l = 0#8 ∨ l = BitVec.allOnes 8) :
    (h &&& m == p) = decide (h.toNat % 256 + 256 * (if l = 0#8 then 0 else h.toNat / 256 % 256) +
      65536 * (if c = 0#4 then 0 else h.toNat / 65536 % 16) + 1048576 * (h.toNat / 1048576) = p.toNat) := by
  have hh := h.isLt
  have e (x : Word) : (x == p) = decide (x.toNat = p.toNat) := by
    rw [Bool.eq_iff_iff, beq_iff_eq, decide_eq_true_eq, BitVec.toNat_inj]
  have e1 : (h.extractLsb' 0 8).toNat = h.toNat % 256 := by simp
  have e2 : (h.extractLsb' 20 12).toNat = h.toNat / 1048576 := by simp [Nat.shiftRight_eq_div_pow]; omega
  have e3 : (h.extractLsb' 8 8).toNat = h.toNat / 256 % 256 := by simp [Nat.shiftRight_eq_div_pow]
  have e4 : (h.extractLsb' 16 4).toNat = h.toNat / 65536 % 16 := by simp [Nat.shiftRight_eq_div_pow]
  rw [hm, and_fieldMask h hc hl, e, toNat_headerFields, e1, e2]
  congr 2
  split_ifs <;> simp [e3, e4]

/-- What a row of format H asks of a header. -/
theorem selects_maskH (h p : Word) : (h &&& maskH == p) = decide (h.toNat % 256 + 256 * (h.toNat / 256 % 256) +
    65536 * (h.toNat / 65536 % 16) + 1048576 * (h.toNat / 1048576) = p.toNat) :=
  beq_fieldMask h p (c := BitVec.allOnes 4) (l := BitVec.allOnes 8) (by decide) (.inr rfl) (.inr rfl)

/-- What a row of format HL asks of a header: nothing of L. -/
theorem selects_maskHL (h p : Word) : (h &&& maskHL == p) = decide (h.toNat % 256 +
    65536 * (h.toNat / 65536 % 16) + 1048576 * (h.toNat / 1048576) = p.toNat) := by
  simpa using beq_fieldMask h p (m := maskHL) (c := BitVec.allOnes 4) (l := 0#8) (by decide) (.inr rfl) (.inl rfl)

/-- What a row of format HC asks of a header: nothing of CTX. -/
theorem selects_maskHC (h p : Word) : (h &&& maskHC == p) = decide (h.toNat % 256 + 256 * (h.toNat / 256 % 256) +
    1048576 * (h.toNat / 1048576) = p.toNat) := by
  simpa using beq_fieldMask h p (m := maskHC) (c := 0#4) (l := BitVec.allOnes 8) (by decide) (.inl rfl) (.inr rfl)

/-- What a row of format HLC asks of a header: nothing of L and CTX. -/
theorem selects_maskHLC (h p : Word) :
    (h &&& maskHLC == p) = decide (h.toNat % 256 + 1048576 * (h.toNat / 1048576) = p.toNat) := by
  simpa using beq_fieldMask h p (m := maskHLC) (c := 0#4) (l := 0#8) (by decide) (.inl rfl) (.inl rfl)

/-- The row a header selects, by its place in the table. -/
theorem findRow_eq_getElem {h : Word} {n : Nat} (e : commandTable.findIdx (·.selects h) = n) : findRow h = commandTable[n]? := by
  subst e
  unfold findRow
  induction commandTable with
  | nil => rfl
  | cons r rs ih =>
    rw [List.findIdx_cons, List.find?_cons]
    cases r.selects h <;> simp [ih]

end Sys2Proof
end

