-- ==== Sys2Proof/Laws/State.lean ====
section
/-! SUPPORT. One lemma per field per update of `State`, so that no proof unfolds a record update. -/

namespace Sys2Proof.Machine

@[simp] theorem State.setPh_status (s : State) (i : Nat) (c : PhContext) :
    (s.setPh i c).status = s.status := rfl
@[simp] theorem State.setPh_ph (s : State) (i : Nat) (c : PhContext) :
    (s.setPh i c).ph = s.ph.set i c := rfl
@[simp] theorem State.setPh_pf (s : State) (i : Nat) (c : PhContext) :
    (s.setPh i c).pf = s.pf := rfl
@[simp] theorem State.setPh_pp (s : State) (i : Nat) (c : PhContext) :
    (s.setPh i c).pp = s.pp := rfl
@[simp] theorem State.setPh_port (s : State) (i : Nat) (c : PhContext) :
    (s.setPh i c).port = s.port := rfl
@[simp] theorem State.setPh_responses (s : State) (i : Nat) (c : PhContext) :
    (s.setPh i c).responses = s.responses := rfl

@[simp] theorem State.setPf_status (s : State) (i : Nat) (c : PfContext) :
    (s.setPf i c).status = s.status := rfl
@[simp] theorem State.setPf_ph (s : State) (i : Nat) (c : PfContext) :
    (s.setPf i c).ph = s.ph := rfl
@[simp] theorem State.setPf_pf (s : State) (i : Nat) (c : PfContext) :
    (s.setPf i c).pf = s.pf.set i c := rfl
@[simp] theorem State.setPf_pp (s : State) (i : Nat) (c : PfContext) :
    (s.setPf i c).pp = s.pp := rfl
@[simp] theorem State.setPf_port (s : State) (i : Nat) (c : PfContext) :
    (s.setPf i c).port = s.port := rfl
@[simp] theorem State.setPf_responses (s : State) (i : Nat) (c : PfContext) :
    (s.setPf i c).responses = s.responses := rfl

@[simp] theorem State.setPp_status (s : State) (i : Nat) (c : PpContext) :
    (s.setPp i c).status = s.status := rfl
@[simp] theorem State.setPp_ph (s : State) (i : Nat) (c : PpContext) :
    (s.setPp i c).ph = s.ph := rfl
@[simp] theorem State.setPp_pf (s : State) (i : Nat) (c : PpContext) :
    (s.setPp i c).pf = s.pf := rfl
@[simp] theorem State.setPp_pp (s : State) (i : Nat) (c : PpContext) :
    (s.setPp i c).pp = s.pp.set i c := rfl
@[simp] theorem State.setPp_port (s : State) (i : Nat) (c : PpContext) :
    (s.setPp i c).port = s.port := rfl
@[simp] theorem State.setPp_responses (s : State) (i : Nat) (c : PpContext) :
    (s.setPp i c).responses = s.responses := rfl

@[simp] theorem State.setStatus_status (s : State) (st : Status) :
    (s.setStatus st).status = st := rfl
@[simp] theorem State.setStatus_ph (s : State) (st : Status) :
    (s.setStatus st).ph = s.ph := rfl
@[simp] theorem State.setStatus_pf (s : State) (st : Status) :
    (s.setStatus st).pf = s.pf := rfl
@[simp] theorem State.setStatus_pp (s : State) (st : Status) :
    (s.setStatus st).pp = s.pp := rfl
@[simp] theorem State.setStatus_port (s : State) (st : Status) :
    (s.setStatus st).port = s.port := rfl
@[simp] theorem State.setStatus_responses (s : State) (st : Status) :
    (s.setStatus st).responses = s.responses := rfl

@[simp] theorem State.respond_status (s : State) (r : Response) :
    (s.respond r).status = s.status := rfl
@[simp] theorem State.respond_ph (s : State) (r : Response) :
    (s.respond r).ph = s.ph := rfl
@[simp] theorem State.respond_pf (s : State) (r : Response) :
    (s.respond r).pf = s.pf := rfl
@[simp] theorem State.respond_pp (s : State) (r : Response) :
    (s.respond r).pp = s.pp := rfl
@[simp] theorem State.respond_port (s : State) (r : Response) :
    (s.respond r).port = s.port := rfl
@[simp] theorem State.respond_responses (s : State) (r : Response) :
    (s.respond r).responses = s.responses ++ [r] := rfl

@[simp] theorem State.answering_status (s : State) (ws : List Word) :
    (s.answering ws).status = s.status := rfl
@[simp] theorem State.answering_ph (s : State) (ws : List Word) :
    (s.answering ws).ph = s.ph := rfl
@[simp] theorem State.answering_pf (s : State) (ws : List Word) :
    (s.answering ws).pf = s.pf := rfl
@[simp] theorem State.answering_pp (s : State) (ws : List Word) :
    (s.answering ws).pp = s.pp := rfl
@[simp] theorem State.answering_port (s : State) (ws : List Word) :
    (s.answering ws).port = s.port := rfl
@[simp] theorem State.answering_responses (s : State) (ws : List Word) :
    (s.answering ws).responses = s.responses ++ [⟨0, ws⟩] := rfl

@[simp] theorem State.failing_status (s : State) (e : Nat) :
    (s.failing e).status = ⟨true, BitVec.ofNat 4 e⟩ := rfl
@[simp] theorem State.failing_ph (s : State) (e : Nat) :
    (s.failing e).ph = s.ph := rfl
@[simp] theorem State.failing_pf (s : State) (e : Nat) :
    (s.failing e).pf = s.pf := rfl
@[simp] theorem State.failing_pp (s : State) (e : Nat) :
    (s.failing e).pp = s.pp := rfl
@[simp] theorem State.failing_port (s : State) (e : Nat) :
    (s.failing e).port = s.port := rfl
@[simp] theorem State.failing_responses (s : State) (e : Nat) :
    (s.failing e).responses = s.responses ++ [⟨BitVec.ofNat 32 e, []⟩] := rfl

@[simp] theorem State.applyReset_status (s : State) :
    (s.applyReset).status = Status.cleared := rfl
@[simp] theorem State.applyReset_ph (s : State) :
    (s.applyReset).ph = s.ph.map fun _ => PhContext.unconfigured := rfl
@[simp] theorem State.applyReset_pf (s : State) :
    (s.applyReset).pf = s.pf.map fun _ => PfContext.unconfigured := rfl
@[simp] theorem State.applyReset_pp (s : State) :
    (s.applyReset).pp = s.pp.map fun _ => PpContext.unconfigured := rfl
@[simp] theorem State.applyReset_port (s : State) :
    (s.applyReset).port = s.port := rfl
@[simp] theorem State.applyReset_responses (s : State) :
    (s.applyReset).responses = s.responses := rfl

end Sys2Proof.Machine
end

