-- ==== Sys2Proof/Laws/Ops.lean ====
section
/-! SUPPORT. What each shared operation can do, said once: the equations for each way it can go, and the inversion of "it answers `next t`". -/

namespace Sys2Proof.Machine

theorem raise_eq (e : DomainError) (s : State) : raise e s = .next (s.failing (errorCode e).toNat) := by
  cases e <;> rfl

theorem reply_eq (ws : List Word) (s : State) : reply ws s = .next (s.answering ws) := rfl

theorem replyValue_eq (n v : Nat) (s : State) : replyValue n v s = .next (s.answering (limbs n v)) := rfl

theorem checkWidth_legal {m l : Nat} (h : 1 ≤ l ∧ l ≤ m) (s : State) (go : Result) : checkWidth m l s go = go := by
  unfold checkWidth; rw [if_neg]; omega

theorem checkWidth_illegal {m l : Nat} (h : l = 0 ∨ m < l) (s : State) (go : Result) :
    checkWidth m l s go = .next (s.failing 3) := by
  unfold checkWidth; rw [if_pos h]; rfl

/-- All that a width check can do. -/
theorem checkWidth_next {m l : Nat} {s t : State} {go : Result} (h : checkWidth m l s go = .next t) :
    ((l = 0 ∨ m < l) ∧ t = s.failing 3) ∨ ((1 ≤ l ∧ l ≤ m) ∧ go = .next t) := by
  by_cases hl : l = 0 ∨ m < l
  · rw [checkWidth_illegal hl] at h; exact .inl ⟨hl, by injection h with h; exact h.symm⟩
  · have hl' : 1 ≤ l ∧ l ≤ m := by omega
    rw [checkWidth_legal hl'] at h; exact .inr ⟨hl', h⟩

theorem checkDomain_true {b : Bool} (h : b = true) (s : State) (go : Result) : checkDomain b s go = go := by
  simp [checkDomain, h]

theorem checkDomain_false {b : Bool} (h : b = false) (s : State) (go : Result) :
    checkDomain b s go = .next (s.failing 6) := by
  simp [checkDomain, h, raise_eq, errorCode]

/-- All that a domain check can do. -/
theorem checkDomain_next {b : Bool} {s t : State} {go : Result} (h : checkDomain b s go = .next t) :
    (b = false ∧ t = s.failing 6) ∨ (b = true ∧ go = .next t) := by
  cases b with
  | false => rw [checkDomain_false rfl] at h; exact .inl ⟨rfl, by injection h with h; exact h.symm⟩
  | true => exact .inr ⟨rfl, h⟩

theorem withContext_some {γ : Type} {file : List γ} {ctx : Nat} {c : γ} (h : file[ctx]? = some c) (s : State)
    (go : γ → Result) : withContext file ctx s go = go c := by
  simp [withContext, h]

theorem withContext_none {γ : Type} {file : List γ} {ctx : Nat} (h : file.length ≤ ctx) (s : State) (go : γ → Result) :
    withContext file ctx s go = .next (s.failing 4) := by
  simp [withContext, List.getElem?_eq_none h, raise_eq, errorCode]

/-- All that a context check can do. -/
theorem withContext_next {γ : Type} {file : List γ} {ctx : Nat} {s t : State} {go : γ → Result}
    (h : withContext file ctx s go = .next t) :
    (file.length ≤ ctx ∧ t = s.failing 4) ∨ (∃ c, file[ctx]? = some c ∧ go c = .next t) := by
  by_cases hl : file.length ≤ ctx
  · rw [withContext_none hl] at h; exact .inl ⟨hl, by injection h with h; exact h.symm⟩
  · have hc : file[ctx]? = some (file[ctx]'(by omega)) := List.getElem?_eq_getElem (by omega)
    rw [withContext_some hc] at h; exact .inr ⟨_, hc, h⟩

theorem checkValid_true {b : Bool} (h : b = true) (s : State) (go : Result) : checkValid b s go = go := by
  simp [checkValid, h]

theorem checkValid_false {b : Bool} (h : b = false) (s : State) (go : Result) :
    checkValid b s go = .next (s.failing 5) := by
  simp [checkValid, h, raise_eq, errorCode]

/-- All that a VALID check can do. -/
theorem checkValid_next {b : Bool} {s t : State} {go : Result} (h : checkValid b s go = .next t) :
    (b = false ∧ t = s.failing 5) ∨ (b = true ∧ go = .next t) := by
  cases b with
  | false => rw [checkValid_false rfl] at h; exact .inl ⟨rfl, by injection h with h; exact h.symm⟩
  | true => exact .inr ⟨rfl, h⟩

theorem fbDone_iff (f : FilterBuffer) : fbDone f = true ↔ f.cur = 32 := by
  simp [fbDone, Config.capacity]

/-- All that the write step of a filter buffer does below its capacity. -/
theorem fbWrite_some {f : FilterBuffer} (h : f.cur < 32) (x : BitVec 64) :
    fbWrite f x = some { f with
      sum := f.sum + pairProduct (f.k[2 * f.cur]'(by omega)) (f.k[2 * f.cur + 1]'(by omega)) (evenLane x) (oddLane x)
      cur := f.cur + 1 } := by
  have h0 : 2 * f.cur < 64 := by omega
  have h1 : 2 * f.cur + 1 < 64 := by omega
  simp [fbWrite, keyRead, h0, h1]

theorem fbWrite_none {f : FilterBuffer} (h : 32 ≤ f.cur) (x : BitVec 64) : fbWrite f x = none := by
  have h1 : ¬ 2 * f.cur + 1 < 64 := by omega
  unfold fbWrite keyRead
  rw [Vector.getElem?_eq_none (i := 2 * f.cur + 1) (by omega)]
  split <;> simp_all

/-- The write step leaves the keys alone and moves the cursor on by one. -/
theorem fbWrite_frame {f g : FilterBuffer} {x : BitVec 64} (h : fbWrite f x = some g) :
    f.cur < 32 ∧ g.k = f.k ∧ g.kb = f.kb ∧ g.cur = f.cur + 1 := by
  by_cases hc : f.cur < 32
  · rw [fbWrite_some hc] at h; cases h; exact ⟨hc, rfl, rfl, rfl⟩
  · rw [fbWrite_none (by omega)] at h; cases h

theorem takeEvent_eq (s : State) :
    takeEvent s = match s.port with
      | [] => (none, s)
      | e :: rest => (some e, { s with port := rest }) := rfl

end Sys2Proof.Machine
end

