-- ==== Sys2Proof/Laws/PerInstr.lean ====
section
/-! SUPPORT. Statements for all commands, made per command: the payload the encoder writes has the length the command table gives
the command (30_encoding.md R86). -/

namespace Sys2Proof.Laws.PayloadLength

/-- The encoder writes exactly the payload words of the command's row. -/
def Statement (i : Instr) : Prop := (encode i).payload.length = i.payloadWords

theorem status :
    Statement (.status) := by
  simp [Statement, encode, Instr.payloadWords]

theorem mul3x1 (a : BitVec 96) (x : BitVec 32) :
    Statement (.mul3x1 a x) := by
  simp [Statement, encode, Instr.payloadWords]

theorem mul3x1a3 (a : BitVec 96) (x : BitVec 32) (addend : BitVec 96) :
    Statement (.mul3x1a3 a x addend) := by
  simp [Statement, encode, Instr.payloadWords]

theorem mul3x2 (a : BitVec 96) (x : BitVec 64) :
    Statement (.mul3x2 a x) := by
  simp [Statement, encode, Instr.payloadWords]

theorem muladd (a b : BitVec 96) (x : BitVec 64) :
    Statement (.muladd a b x) := by
  simp [Statement, encode, Instr.payloadWords]

theorem mul3x3 (a x : BitVec 96) :
    Statement (.mul3x3 a x) := by
  simp [Statement, encode, Instr.payloadWords]

theorem red6a3 (wide : BitVec 192) (extra : BitVec 96) :
    Statement (.red6a3 wide extra) := by
  simp [Statement, encode, Instr.payloadWords]

theorem mod5 (l : Nat) (v : BitVec 160) :
    Statement (.mod5 l v) := by
  simp [Statement, encode, Instr.payloadWords]

theorem mmp31 (l : Nat) (a b x : BitVec 32) :
    Statement (.mmp31 l a b x) := by
  simp [Statement, encode, Instr.payloadWords]

theorem mmp61 (l : Nat) (a b x : BitVec 64) :
    Statement (.mmp61 l a b x) := by
  simp [Statement, encode, Instr.payloadWords]

theorem mmp89 (l : Nat) (a b : BitVec 96) (x : BitVec 64) :
    Statement (.mmp89 l a b x) := by
  simp [Statement, encode, Instr.payloadWords]

theorem mmp31x3 (l : Nat) (a0 b0 a1 b1 a2 b2 : BitVec 32) (x : BitVec 64) :
    Statement (.mmp31x3 l a0 b0 a1 b1 a2 b2 x) := by
  simp [Statement, encode, Instr.payloadWords]

theorem ms32 (l : Nat) (a x : BitVec 32) :
    Statement (.ms32 l a x) := by
  simp [Statement, encode, Instr.payloadWords]

theorem ms64 (l : Nat) (a x : BitVec 64) :
    Statement (.ms64 l a x) := by
  simp [Statement, encode, Instr.payloadWords]

theorem ms128 (l : Nat) (a x : BitVec 128) :
    Statement (.ms128 l a x) := by
  simp [Statement, encode, Instr.payloadWords]

theorem mss32 (l : Nat) (a b : BitVec 64) (x : BitVec 32) :
    Statement (.mss32 l a b x) := by
  simp [Statement, encode, Instr.payloadWords]

theorem mss64 (l : Nat) (a b : BitVec 128) (x : BitVec 64) :
    Statement (.mss64 l a b x) := by
  simp [Statement, encode, Instr.payloadWords]

theorem mss128 (l : Nat) (a b : BitVec 256) (x : BitVec 128) :
    Statement (.mss128 l a b x) := by
  simp [Statement, encode, Instr.payloadWords]

theorem vdot (l : Nat) (a : Keys) (b : Key) (x : Lanes) :
    Statement (.vdot l a b x) := by
  simp [Statement, encode, Instr.payloadWords, keysWords_length, lanesWords_length]

theorem vdotp (l : Nat) (a : Keys) (b : Key) (x : Lanes) :
    Statement (.vdotp l a b x) := by
  simp [Statement, encode, Instr.payloadWords, keysWords_length, lanesWords_length]

theorem pfNew (ctx : Nat) (k : Keys) (kb : Key) :
    Statement (.pfNew ctx k kb) := by
  simp [Statement, encode, Instr.payloadWords, keysWords_length]

theorem pfWrite (ctx : Nat) (x : BitVec 64) :
    Statement (.pfWrite ctx x) := by
  simp [Statement, encode, Instr.payloadWords]

theorem pfIsdone (ctx : Nat) :
    Statement (.pfIsdone ctx) := by
  simp [Statement, encode, Instr.payloadWords]

theorem pfFinish (ctx l : Nat) :
    Statement (.pfFinish ctx l) := by
  simp [Statement, encode, Instr.payloadWords]

theorem phNew (ctx : Nat) (a b c : BitVec 96) :
    Statement (.phNew ctx a b c) := by
  simp [Statement, encode, Instr.payloadWords]

theorem phWrite (ctx : Nat) (x : BitVec 64) :
    Statement (.phWrite ctx x) := by
  simp [Statement, encode, Instr.payloadWords]

theorem phFinish (ctx l : Nat) :
    Statement (.phFinish ctx l) := by
  simp [Statement, encode, Instr.payloadWords]

theorem ppNew (ctx : Nat) (a b c : BitVec 96) (k0 : Keys) (kb0 : Key) (k1 : Keys) (kb1 : Key) :
    Statement (.ppNew ctx a b c k0 kb0 k1 kb1) := by
  simp [Statement, encode, Instr.payloadWords, keysWords_length]

theorem ppWrite (ctx : Nat) (x : BitVec 64) :
    Statement (.ppWrite ctx x) := by
  simp [Statement, encode, Instr.payloadWords]

theorem ppFinish (ctx l : Nat) :
    Statement (.ppFinish ctx l) := by
  simp [Statement, encode, Instr.payloadWords]

end Sys2Proof.Laws.PayloadLength
end

