-- ==== Sys2Proof/Laws/Values.lean ====
section
/-! SUPPORT. The value of each shared bit-vector operation, as a number (42_multiply_shift.md R160, 43_vector_block.md R181 R182 R187 R191,
45_preprocessing.md R234). -/

namespace Sys2Proof.Machine

theorem evenLane_toNat (x : BitVec 64) : (evenLane x).toNat = x.toNat % 2 ^ 32 := by
  have := x.isLt
  simp [evenLane]; omega

theorem oddLane_toNat (x : BitVec 64) : (oddLane x).toNat = x.toNat / 2 ^ 32 := by
  have := x.isLt
  simp [oddLane, Nat.shiftRight_eq_div_pow]; omega

theorem pairProduct_toNat (keyEven keyOdd laneEven laneOdd : Key) :
    (pairProduct keyEven keyOdd laneEven laneOdd).toNat =
      (keyEven.toNat + laneOdd.toNat) * (keyOdd.toNat + laneEven.toNat) % 2 ^ 64 := by
  rw [pairProduct, BitVec.toNat_mul, BitVec.toNat_add, BitVec.toNat_add, ← Nat.mul_mod]

theorem fbDigest_toNat (f : FilterBuffer) (l : Nat) :
    (fbDigest f l).toNat = (f.kb.toNat + f.sum.toNat) % 2 ^ 64 / 2 ^ (64 - l) := by
  rw [fbDigest, BitVec.toNat_ushiftRight, BitVec.toNat_add, Nat.shiftRight_eq_div_pow]

theorem topBits_toNat (l : Nat) (b s : BitVec 64) :
    (topBits l b s).toNat = (b.toNat + s.toNat) % 2 ^ 64 / 2 ^ (64 - l) := by
  rw [topBits, BitVec.toNat_ushiftRight, BitVec.toNat_add, Nat.shiftRight_eq_div_pow]

theorem mulShift_toNat {w : Nat} (l : Nat) (a x : BitVec w) :
    (mulShift l a x).toNat = a.toNat * x.toNat % 2 ^ w / 2 ^ (w - l) := by
  rw [mulShift, BitVec.toNat_ushiftRight, BitVec.toNat_mul, Nat.shiftRight_eq_div_pow]

theorem mulShiftStrong_toNat {w v : Nat} (h : w ≤ v) (l : Nat) (a b : BitVec v) (x : BitVec w) :
    (mulShiftStrong l a b x).toNat = (a.toNat * x.toNat + b.toNat) % 2 ^ v / 2 ^ (v - l) := by
  have hx : x.toNat % 2 ^ v = x.toNat :=
    Nat.mod_eq_of_lt (lt_of_lt_of_le x.isLt (Nat.pow_le_pow_right (by norm_num) h))
  rw [mulShiftStrong, BitVec.toNat_ushiftRight, BitVec.toNat_add, BitVec.toNat_mul, BitVec.toNat_setWidth, hx,
    Nat.shiftRight_eq_div_pow, Nat.mod_add_mod]

/-- Two values below `2^32` packed into one word (R234). -/
theorem pack_toNat {h0 h1 : BitVec 64} (l0 : h0.toNat < 2 ^ 32) (l1 : h1.toNat < 2 ^ 32) :
    (pack h0 h1).toNat = h0.toNat + 2 ^ 32 * h1.toNat := by
  have e : h1.toNat <<< 32 % 2 ^ 64 = h1.toNat <<< 32 := by rw [Nat.shiftLeft_eq]; omega
  rw [pack, BitVec.toNat_or, BitVec.toNat_shiftLeft, e, Nat.or_comm, ← Nat.shiftLeft_add_eq_or_of_lt l0, Nat.shiftLeft_eq]
  omega

/-- A filter's digest at width 32 fits the half word it is packed into. -/
theorem fbDigest_lt (f : FilterBuffer) : (fbDigest f 32).toNat < 2 ^ 32 := by
  rw [fbDigest_toNat]; omega

/-- A stored element is the checked operand (R34, R91). -/
theorem storeElement_toNat {v : BitVec 96} (h : isFieldElement v = true) : (storeElement v).toNat = v.toNat := by
  rw [isFieldElement, decide_eq_true_eq, Config.p89] at h
  rw [storeElement, BitVec.toNat_setWidth]
  omega

/-- The hasher's state stays below the prime (R35). -/
theorem phWrite_lt (c state : FieldElement) (x : BitVec 64) : (phWrite c state x).toNat < Config.p89 := by
  have h := Nat.mod_lt (c.toNat * state.toNat + x.toNat) (show 0 < Config.p89 by norm_num [Config.p89])
  rw [phWrite, BitVec.toNat_ofNat]
  unfold Config.p89 at *
  omega

/-- All that a flush does (R233). -/
theorem ppFlush_eq (q : PpContext) : ppFlush q =
    { q with
      f0 := { q.f0 with sum := 0, cur := 0 }
      f1 := { q.f1 with sum := 0, cur := 0 }
      state := phWrite q.c q.state (pack (fbDigest q.f0 32) (fbDigest q.f1 32)) } := rfl

/-- All that feeding a pipeline below its capacity does (R232, R235). -/
theorem ppFeed_some {q : PpContext} (h0 : q.f0.cur < 32) (h1 : q.f1.cur < 32) (x : BitVec 64) :
    ∃ f0 f1, fbWrite q.f0 x = some f0 ∧ fbWrite q.f1 x = some f1 ∧ ppFeed q x = some { q with f0 := f0, f1 := f1 } := by
  simp [ppFeed, fbWrite_some h0, fbWrite_some h1]

end Sys2Proof.Machine
end

