-- ==== Sys2Proof/Tests/Slice0.lean ====
section
/-! SUPPORT. Tests: ill-formed terms are refused; written-out words decode; one step of each command against the vectors of
95_test_vectors.md; the host's two functions; the assembler; and, for every statement of Obligations that has hypotheses, values that
meet them all. Expected results come from the spec. -/

namespace Sys2Proof.Tests

-- One theorem at a time: the elaborator starts a thread for each otherwise.
set_option Elab.async false

open Sys2Proof Sys2Proof.Machine

/-- The state an outcome holds, if it is a next state. -/
def nextOf : Result → Option State
  | .next t => some t
  | .fault _ => none
  | .refused _ => none

/-- One step with one packet at the port. -/
def after (s : State) (p : Packet) : Option State := nextOf (step { s with port := [.command p] })

/-- The response of one step with one packet at the port. -/
def served (s : State) (p : Packet) : Option Response := (after s p).bind fun t => t.responses.getLast?

/-- The block with one polynomial-hasher context. -/
def onPh (a b c state : FieldElement) : State := { State.reset with ph := [⟨true, a, b, c, state⟩] }

/-- The block with one pair filter. -/
def onPf (buf : FilterBuffer) : State := { State.reset with pf := [⟨true, buf⟩] }

/-- The block with one pipeline with the coefficients (1, 0, 2) of 95_test_vectors.md section 2.7. -/
def onPp (state : FieldElement) (f0 f1 : FilterBuffer) : State := { State.reset with pp := [⟨true, 1, 0, 2, state, f0, f1⟩] }

/-- The keys `m·(i+1)` of sections 2.4 and 2.7. -/
def keysOf (m : Nat) : Keys := Vector.ofFn fun i => BitVec.ofNat 64 (m * (i.val + 1))

/-- The keys of section 2.4. -/
def keys0 : Keys := keysOf 0x9E3779B97F4A7C15

/-- The second filter's keys of section 2.7. -/
def keys1 : Keys := keysOf 0xC2B2AE3D27D4EB4F

/-- The 128 payload words of the keys `m·(i+1)`, low word first, written from the formula of sections 2.4 and 2.7. -/
def keyPayload (m : Nat) : List Word :=
  (List.range 64).flatMap fun i => [BitVec.ofNat 32 (m * (i + 1)), BitVec.ofNat 32 (m * (i + 1) % 2 ^ 64 / 2 ^ 32)]

/-- The lane words of section 2.4. -/
def lanePayload : List Word := (List.range 64).map fun i => BitVec.ofNat 32 (0x01000193 * (i + 1))

/-- The lanes of section 2.4. -/
def lanes0 : Lanes := Vector.ofFn fun i => BitVec.ofNat 32 (0x01000193 * (i.val + 1))

/-- The payload of the VDOT and VDOTP rows of section 2.4. -/
def dotPayload : List Word := keyPayload 0x9E3779B97F4A7C15 ++ [0x89ABCDEF#32, 0x01234567#32] ++ lanePayload

/-- The decoder answered this command. -/
def isOk (r : Except DomainError Instr) (i : Instr) : Bool :=
  match r with
  | .ok j => j == i
  | .error _ => false

/-- The decoder answered this error. -/
def isErr (r : Except DomainError Instr) (e : DomainError) : Bool :=
  match r with
  | .ok _ => false
  | .error f => f == e

/-! Ill-formed terms are refused: L that does not fit 8 bits, CTX that does not fit 4 bits, in every command that has the field. -/

theorem test_wellFormed_refuses_l :
    [Instr.mod5 256 0, .mmp31 256 0 0 0, .mmp61 256 0 0 0, .mmp89 256 0 0 0, .mmp31x3 256 0 0 0 0 0 0 0, .ms32 256 0 0,
      .ms64 256 0 0, .ms128 256 0 0, .mss32 256 0 0 0, .mss64 256 0 0 0, .mss128 256 0 0 0, .vdot 256 keys0 0 lanes0,
      .vdotp 256 keys0 0 lanes0, .pfFinish 0 256, .phFinish 0 256, .ppFinish 0 256].all (fun i => !i.wellFormed) = true := by
  decide

theorem test_wellFormed_refuses_ctx :
    [Instr.pfNew 16 keys0 0, .pfWrite 16 0, .pfIsdone 16, .pfFinish 16 1, .phNew 16 0 0 0, .phWrite 16 0, .phFinish 16 1,
      .ppNew 16 0 0 0 keys0 0 keys1 0, .ppWrite 16 0, .ppFinish 16 1].all (fun i => !i.wellFormed) = true := by decide

theorem test_wellFormed_accepts_boundaries :
    [Instr.status, .mod5 255 0, .vdot 255 keys0 0 lanes0, .pfFinish 15 255, .phNew 15 0 0 0, .ppFinish 15 255].all
      (fun i => i.wellFormed) = true := by decide

/-! Decoding: a word list written out from R81, R85 and R86 for every command. -/

theorem test_decode_status : isOk (decode ⟨0x00000000#32, []⟩)
    (.status) = true := by decide +kernel

theorem test_decode_mul3x1 : isOk (decode ⟨0x00000010#32, [1#32, 2#32, 3#32, 4#32]⟩)
    (.mul3x1 0x000000030000000200000001#96 4#32) = true := by decide +kernel

theorem test_decode_mul3x1a3 : isOk (decode ⟨0x00000011#32, [1#32, 2#32, 3#32, 4#32, 5#32, 6#32, 7#32]⟩)
    (.mul3x1a3 0x000000030000000200000001#96 4#32 0x000000070000000600000005#96) = true := by decide +kernel

theorem test_decode_mul3x2 : isOk (decode ⟨0x00000012#32, [1#32, 2#32, 3#32, 4#32, 5#32]⟩)
    (.mul3x2 0x000000030000000200000001#96 0x0000000500000004#64) = true := by decide +kernel

theorem test_decode_muladd : isOk (decode ⟨0x00000013#32, [1#32, 2#32, 3#32, 4#32, 5#32, 6#32, 7#32, 8#32]⟩)
    (.muladd 0x000000030000000200000001#96 0x000000060000000500000004#96 0x0000000800000007#64) = true := by decide +kernel

theorem test_decode_mul3x3 : isOk (decode ⟨0x00000014#32, [1#32, 2#32, 3#32, 4#32, 5#32, 6#32]⟩)
    (.mul3x3 0x000000030000000200000001#96 0x000000060000000500000004#96) = true := by decide +kernel

theorem test_decode_red6a3 : isOk (decode ⟨0x00000015#32, [1#32, 2#32, 3#32, 4#32, 5#32, 6#32, 7#32, 8#32, 9#32]⟩)
    (.red6a3 0x000000060000000500000004000000030000000200000001#192 0x000000090000000800000007#96) = true := by decide +kernel

theorem test_decode_mod5 : isOk (decode ⟨0x00005816#32, [1#32, 2#32, 3#32, 4#32, 5#32]⟩)
    (.mod5 88 0x0000000500000004000000030000000200000001#160) = true := by decide +kernel

theorem test_decode_mmp31 : isOk (decode ⟨0x00001E20#32, [1#32, 2#32, 3#32]⟩)
    (.mmp31 30 1#32 2#32 3#32) = true := by decide +kernel

theorem test_decode_mmp61 : isOk (decode ⟨0x00003C21#32, [1#32, 2#32, 3#32, 4#32, 5#32, 6#32]⟩)
    (.mmp61 60 0x0000000200000001#64 0x0000000400000003#64 0x0000000600000005#64) = true := by decide +kernel

theorem test_decode_mmp89 : isOk (decode ⟨0x00005822#32, [1#32, 2#32, 3#32, 4#32, 5#32, 6#32, 7#32, 8#32]⟩)
    (.mmp89 88 0x000000030000000200000001#96 0x000000060000000500000004#96 0x0000000800000007#64) = true := by decide +kernel

theorem test_decode_mmp31x3 : isOk (decode ⟨0x00001E23#32, [1#32, 2#32, 3#32, 4#32, 5#32, 6#32, 7#32, 8#32]⟩)
    (.mmp31x3 30 1#32 2#32 3#32 4#32 5#32 6#32 0x0000000800000007#64) = true := by decide +kernel

theorem test_decode_ms32 : isOk (decode ⟨0x00002030#32, [1#32, 2#32]⟩)
    (.ms32 32 1#32 2#32) = true := by decide +kernel

theorem test_decode_ms64 : isOk (decode ⟨0x00004031#32, [1#32, 2#32, 3#32, 4#32]⟩)
    (.ms64 64 0x0000000200000001#64 0x0000000400000003#64) = true := by decide +kernel

theorem test_decode_ms128 : isOk (decode ⟨0x00008032#32, [1#32, 2#32, 3#32, 4#32, 5#32, 6#32, 7#32, 8#32]⟩)
    (.ms128 128 0x00000004000000030000000200000001#128 0x00000008000000070000000600000005#128) = true := by decide +kernel

theorem test_decode_mss32 : isOk (decode ⟨0x00002034#32, [1#32, 2#32, 3#32, 4#32, 5#32]⟩)
    (.mss32 32 0x0000000200000001#64 0x0000000400000003#64 5#32) = true := by decide +kernel

theorem test_decode_mss64 : isOk (decode ⟨0x00004035#32, [1#32, 2#32, 3#32, 4#32, 5#32, 6#32, 7#32, 8#32, 9#32, 10#32]⟩)
    (.mss64 64 0x00000004000000030000000200000001#128 0x00000008000000070000000600000005#128 0x0000000A00000009#64) = true := by decide +kernel

theorem test_decode_mss128 : isOk (decode ⟨0x0000FF36#32, [1#32, 2#32, 3#32, 4#32, 5#32, 6#32, 7#32, 8#32, 9#32, 10#32, 11#32, 12#32, 13#32, 14#32, 15#32, 16#32, 17#32,
      18#32, 19#32, 20#32]⟩)
    (.mss128 255 0x0000000800000007000000060000000500000004000000030000000200000001#256
      0x000000100000000F0000000E0000000D0000000C0000000B0000000A00000009#256 0x00000014000000130000001200000011#128) = true := by decide +kernel

theorem test_decode_vdot : isOk (decode ⟨0x00002040#32, dotPayload⟩)
    (.vdot 32 keys0 0x0123456789ABCDEF#64 lanes0) = true := by decide +kernel

theorem test_decode_vdotp : isOk (decode ⟨0x00002041#32, dotPayload⟩)
    (.vdotp 32 keys0 0x0123456789ABCDEF#64 lanes0) = true := by decide +kernel

theorem test_decode_pfNew : isOk (decode ⟨0x00010044#32, keyPayload 0x9E3779B97F4A7C15 ++ [0x89ABCDEF#32, 0x01234567#32]⟩)
    (.pfNew 1 keys0 0x0123456789ABCDEF#64) = true := by decide +kernel

theorem test_decode_pfWrite : isOk (decode ⟨0x00020045#32, [5#32, 6#32]⟩)
    (.pfWrite 2 0x0000000600000005#64) = true := by decide +kernel

theorem test_decode_pfIsdone : isOk (decode ⟨0x000F0046#32, []⟩)
    (.pfIsdone 15) = true := by decide +kernel

theorem test_decode_pfFinish : isOk (decode ⟨0x00032047#32, []⟩)
    (.pfFinish 3 32) = true := by decide +kernel

theorem test_decode_phNew : isOk (decode ⟨0x00040050#32, [1#32, 2#32, 3#32, 4#32, 5#32, 6#32, 7#32, 8#32, 9#32]⟩)
    (.phNew 4 0x000000030000000200000001#96 0x000000060000000500000004#96 0x000000090000000800000007#96) = true := by decide +kernel

theorem test_decode_phWrite : isOk (decode ⟨0x00010051#32, [5#32, 6#32]⟩)
    (.phWrite 1 0x0000000600000005#64) = true := by decide +kernel

theorem test_decode_phFinish : isOk (decode ⟨0x00094052#32, []⟩)
    (.phFinish 9 64) = true := by decide +kernel

theorem test_decode_ppNew : isOk (decode ⟨0x00010060#32, [1#32, 2#32, 3#32, 4#32, 5#32, 6#32, 7#32, 8#32, 9#32] ++ keyPayload 0x9E3779B97F4A7C15 ++
      [0x89ABCDEF#32, 0x01234567#32] ++ keyPayload 0xC2B2AE3D27D4EB4F ++ [0x76543210#32, 0xFEDCBA98#32]⟩)
    (.ppNew 1 0x000000030000000200000001#96 0x000000060000000500000004#96 0x000000090000000800000007#96
      keys0 0x0123456789ABCDEF#64 keys1 0xFEDCBA9876543210#64) = true := by decide +kernel

theorem test_decode_ppWrite : isOk (decode ⟨0x00030061#32, [0x21#32, 0#32]⟩)
    (.ppWrite 3 33#64) = true := by decide +kernel

theorem test_decode_ppFinish : isOk (decode ⟨0x00015862#32, []⟩)
    (.ppFinish 1 88) = true := by decide +kernel

/-! Refused headers and lengths, from section 2.8. -/

theorem test_decode_illegal :
    [(⟨0x00000001#32, []⟩ : Packet), ⟨0x00100010#32, [1, 2, 3, 4]⟩, ⟨0x00000110#32, [1, 2, 3, 4]⟩, ⟨0x00010010#32, [1, 2, 3, 4]⟩,
      ⟨0x00011430#32, [1, 1]⟩, ⟨0x00000151#32, [1, 0]⟩, ⟨0x000000FF#32, []⟩].all (fun p => isErr (decode p) .illegal) = true := by
  decide +kernel

theorem test_decode_length :
    [(⟨0x00000010#32, [1, 2, 3]⟩ : Packet), ⟨0x00000010#32, [1, 2, 3, 4, 5]⟩, ⟨0x00000000#32, [0]⟩, ⟨0x00001F20#32, [1, 1]⟩].all
      (fun p => isErr (decode p) .length) = true := by decide +kernel

/-! Limb arithmetic, from 95_test_vectors.md sections 1 and 2.1. -/

/-- 95_test_vectors.md: `MUL3X1 [0xffffffff,0xffffffff,0xffffffff], 0xffffffff`. -/
theorem test_mul3x1 :
    served State.reset ⟨0x00000010#32, [0xFFFFFFFF#32, 0xFFFFFFFF#32, 0xFFFFFFFF#32, 0xFFFFFFFF#32]⟩ =
      some ⟨0x00000000#32, [0x00000001#32, 0xFFFFFFFF#32, 0xFFFFFFFF#32, 0xFFFFFFFE#32]⟩ := by decide +kernel

/-- 95_test_vectors.md: `MUL3X1 [2,3,4], 5`. -/
theorem test_mul3x1_in_order :
    served State.reset ⟨0x00000010#32, [0x00000002#32, 0x00000003#32, 0x00000004#32, 0x00000005#32]⟩ =
      some ⟨0x00000000#32, [0x0000000A#32, 0x0000000F#32, 0x00000014#32, 0x00000000#32]⟩ := by decide +kernel

/-- 95_test_vectors.md: `MUL3X1A3 [0xffffffff,0xffffffff,0xffffffff], 0xffffffff, [0xffffffff,0xffffffff,0xffffffff]`. -/
theorem test_mul3x1a3 :
    served State.reset ⟨0x00000011#32, [0xFFFFFFFF#32, 0xFFFFFFFF#32, 0xFFFFFFFF#32, 0xFFFFFFFF#32, 0xFFFFFFFF#32, 0xFFFFFFFF#32, 0xFFFFFFFF#32]⟩ =
      some ⟨0x00000000#32, [0x00000000#32, 0xFFFFFFFF#32, 0xFFFFFFFF#32, 0xFFFFFFFF#32]⟩ := by decide +kernel

/-- 95_test_vectors.md: `MUL3X1A3 [1,2,3], 0, [7,8,9]`. -/
theorem test_mul3x1a3_adds :
    served State.reset ⟨0x00000011#32, [0x00000001#32, 0x00000002#32, 0x00000003#32, 0x00000000#32, 0x00000007#32, 0x00000008#32, 0x00000009#32]⟩ =
      some ⟨0x00000000#32, [0x00000007#32, 0x00000008#32, 0x00000009#32, 0x00000000#32]⟩ := by decide +kernel

/-- 95_test_vectors.md: `MUL3X2 [0xfffffffe,0xffffffff,0x1ffffff], [0xffffffff,0xffffffff]`. -/
theorem test_mul3x2 :
    served State.reset ⟨0x00000012#32, [0xFFFFFFFE#32, 0xFFFFFFFF#32, 0x01FFFFFF#32, 0xFFFFFFFF#32, 0xFFFFFFFF#32]⟩ =
      some ⟨0x00000000#32, [0x00000002#32, 0x00000000#32, 0xFDFFFFFE#32, 0xFFFFFFFF#32, 0x01FFFFFF#32]⟩ := by decide +kernel

/-- 95_test_vectors.md: `MUL3X2 [0xffffffff,0xffffffff,0xffffffff], [0xffffffff,0xffffffff]`. -/
theorem test_mul3x2_all_ones :
    served State.reset ⟨0x00000012#32, [0xFFFFFFFF#32, 0xFFFFFFFF#32, 0xFFFFFFFF#32, 0xFFFFFFFF#32, 0xFFFFFFFF#32]⟩ =
      some ⟨0x00000000#32, [0x00000001#32, 0x00000000#32, 0xFFFFFFFF#32, 0xFFFFFFFE#32, 0xFFFFFFFF#32]⟩ := by decide +kernel

/-- 95_test_vectors.md: `MULADD [0xf0fedcba,0x789abcde,0x123456],[0xfffffffe,0xffffffff,0x1fffff],[0x89abcdef,0x1234567]`. -/
theorem test_muladd :
    served State.reset ⟨0x00000013#32, [0xF0FEDCBA#32, 0x789ABCDE#32, 0x00123456#32, 0xFFFFFFFE#32, 0xFFFFFFFF#32, 0x001FFFFF#32, 0x89ABCDEF#32, 0x01234567#32]⟩ =
      some ⟨0x00000000#32, [0x0EEF03A4#32, 0x890F2A52#32, 0xCDEB801A#32, 0x6DC33F6A#32, 0x000014B6#32]⟩ := by decide +kernel

/-- 95_test_vectors.md: `MULADD [0xffffffff,0xffffffff,0xffffffff],[0xffffffff,0xffffffff,0xffffffff],[0xffffffff,0xffffffff]`. -/
theorem test_muladd_all_ones :
    served State.reset ⟨0x00000013#32, [0xFFFFFFFF#32, 0xFFFFFFFF#32, 0xFFFFFFFF#32, 0xFFFFFFFF#32, 0xFFFFFFFF#32, 0xFFFFFFFF#32, 0xFFFFFFFF#32, 0xFFFFFFFF#32]⟩ =
      some ⟨0x00000000#32, [0x00000000#32, 0x00000000#32, 0xFFFFFFFF#32, 0xFFFFFFFF#32, 0xFFFFFFFF#32]⟩ := by decide +kernel

/-- 95_test_vectors.md: `MUL3X3 [0xffffffff,0xffffffff,0xffffffff],[0xffffffff,0xffffffff,0xffffffff]`. -/
theorem test_mul3x3 :
    served State.reset ⟨0x00000014#32, [0xFFFFFFFF#32, 0xFFFFFFFF#32, 0xFFFFFFFF#32, 0xFFFFFFFF#32, 0xFFFFFFFF#32, 0xFFFFFFFF#32]⟩ =
      some ⟨0x00000000#32, [0x00000001#32, 0x00000000#32, 0x00000000#32, 0xFFFFFFFE#32, 0xFFFFFFFF#32, 0xFFFFFFFF#32]⟩ := by decide +kernel

/-- 95_test_vectors.md: `MUL3X3 [0,1,0],[0,0,1]`. -/
theorem test_mul3x3_places :
    served State.reset ⟨0x00000014#32, [0x00000000#32, 0x00000001#32, 0x00000000#32, 0x00000000#32, 0x00000000#32, 0x00000001#32]⟩ =
      some ⟨0x00000000#32, [0x00000000#32, 0x00000000#32, 0x00000000#32, 0x00000001#32, 0x00000000#32, 0x00000000#32]⟩ := by decide +kernel

/-- 95_test_vectors.md: `RED6A3 [0x4,0x0,0xf8000000,0xffffffff,0xffffffff,0x3ffff],[0xfffffffe,0xffffffff,0x1ffffff]`. -/
theorem test_red6a3_square_of_minus_one :
    served State.reset ⟨0x00000015#32, [0x00000004#32, 0x00000000#32, 0xF8000000#32, 0xFFFFFFFF#32, 0xFFFFFFFF#32, 0x0003FFFF#32, 0xFFFFFFFE#32, 0xFFFFFFFF#32, 0x01FFFFFF#32]⟩ =
      some ⟨0x00000000#32, [0x00000000#32, 0x00000000#32, 0x00000000#32]⟩ := by decide +kernel

/-- 95_test_vectors.md: `RED6A3 [0,0,0,0,0,0x40000],[0,0,0]`. -/
theorem test_red6a3_refuses_2_178 :
    served State.reset ⟨0x00000015#32, [0x00000000#32, 0x00000000#32, 0x00000000#32, 0x00000000#32, 0x00000000#32, 0x00040000#32, 0x00000000#32, 0x00000000#32, 0x00000000#32]⟩ =
      some ⟨0x00000006#32, []⟩ := by decide +kernel

/-- 95_test_vectors.md: `MOD5 20, [0xfffffffe,0xffffffff,0x1ffffff,0,0]`. -/
theorem test_mod5_masks :
    served State.reset ⟨0x00001416#32, [0xFFFFFFFE#32, 0xFFFFFFFF#32, 0x01FFFFFF#32, 0x00000000#32, 0x00000000#32]⟩ =
      some ⟨0x00000000#32, [0x000FFFFE#32, 0x00000000#32, 0x00000000#32]⟩ := by decide +kernel

/-- 95_test_vectors.md: `MOD5 89, [0,0,0,0,0]`. -/
theorem test_mod5_refuses_89 :
    served State.reset ⟨0x00005916#32, [0x00000000#32, 0x00000000#32, 0x00000000#32, 0x00000000#32, 0x00000000#32]⟩ =
      some ⟨0x00000003#32, []⟩ := by decide +kernel

/-! Multiply-mod-prime, from sections 1 and 2.2. -/

/-- 95_test_vectors.md: `MMP31 30, 0x6d9e78c5, 0x4019affa, 0x770e288c`. -/
theorem test_mmp31 :
    served State.reset ⟨0x00001E20#32, [0x6D9E78C5#32, 0x4019AFFA#32, 0x770E288C#32]⟩ =
      some ⟨0x00000000#32, [0x095DF80D#32]⟩ := by decide +kernel

/-- 95_test_vectors.md: `MMP31 30, 0x7fffffff, 0, 0`. -/
theorem test_mmp31_refuses_prime :
    served State.reset ⟨0x00001E20#32, [0x7FFFFFFF#32, 0x00000000#32, 0x00000000#32]⟩ =
      some ⟨0x00000006#32, []⟩ := by decide +kernel

/-- 95_test_vectors.md: `MMP61 60, 0x1234567890abcdef, 0x0fedcba987654321, 0x1111111111111111`. -/
theorem test_mmp61 :
    served State.reset ⟨0x00003C21#32, [0x90ABCDEF#32, 0x12345678#32, 0x87654321#32, 0x0FEDCBA9#32, 0x11111111#32, 0x11111111#32]⟩ =
      some ⟨0x00000000#32, [0x97B57008#32, 0x086C9EAE#32]⟩ := by decide +kernel

/-- 95_test_vectors.md: `MMP61 60, 2, 5, 0x1ffffffffffffffe`. -/
theorem test_mmp61_corner :
    served State.reset ⟨0x00003C21#32, [0x00000002#32, 0x00000000#32, 0x00000005#32, 0x00000000#32, 0xFFFFFFFE#32, 0x1FFFFFFF#32]⟩ =
      some ⟨0x00000000#32, [0x00000003#32, 0x00000000#32]⟩ := by decide +kernel

/-- 95_test_vectors.md: `MMP89 88, [0xf0fedcba,0x789abcde,0x123456],[0xfffffffe,0xffffffff,0x1fffff],[0x89abcdef,0x1234567]`. -/
theorem test_mmp89 :
    served State.reset ⟨0x00005822#32, [0xF0FEDCBA#32, 0x789ABCDE#32, 0x00123456#32, 0xFFFFFFFE#32, 0xFFFFFFFF#32, 0x001FFFFF#32, 0x89ABCDEF#32, 0x01234567#32]⟩ =
      some ⟨0x00000000#32, [0xF08EB90A#32, 0x89198588#32, 0x00EB801A#32]⟩ := by decide +kernel

/-- 95_test_vectors.md: `MMP89 88, [0xfffffffe,0xffffffff,0x1ffffff],[0xfffffffe,0xffffffff,0x1ffffff],[0xffffffff,0xffffffff]`. -/
theorem test_mmp89_maximum :
    served State.reset ⟨0x00005822#32, [0xFFFFFFFE#32, 0xFFFFFFFF#32, 0x01FFFFFF#32, 0xFFFFFFFE#32, 0xFFFFFFFF#32, 0x01FFFFFF#32, 0xFFFFFFFF#32, 0xFFFFFFFF#32]⟩ =
      some ⟨0x00000000#32, [0xFFFFFFFF#32, 0xFFFFFFFF#32, 0x00FFFFFE#32]⟩ := by decide +kernel

/-- 95_test_vectors.md: `MMP31X3 30, 1234, 5678, 0x6d9e78c5, 0x4019affa, 3, 4, 0xfedcba9876543210`. -/
theorem test_mmp31x3 :
    served State.reset ⟨0x00001E23#32, [0x000004D2#32, 0x0000162E#32, 0x6D9E78C5#32, 0x4019AFFA#32, 0x00000003#32, 0x00000004#32, 0x76543210#32, 0xFEDCBA98#32]⟩ =
      some ⟨0x00000000#32, [0x24F5934F#32]⟩ := by decide +kernel

/-- 95_test_vectors.md: `MMP31X3 30, 0, 5, 0, 6, 0, 8, 0x123`. -/
theorem test_mmp31x3_pairs :
    served State.reset ⟨0x00001E23#32, [0x00000000#32, 0x00000005#32, 0x00000000#32, 0x00000006#32, 0x00000000#32, 0x00000008#32, 0x00000123#32, 0x00000000#32]⟩ =
      some ⟨0x00000000#32, [0x0000000B#32]⟩ := by decide +kernel

/-! Multiply-shift, from section 2.3. -/

/-- 95_test_vectors.md: `MS32 20, 0x9e3779b1, 0x12345678`. -/
theorem test_ms32 :
    served State.reset ⟨0x00001430#32, [0x9E3779B1#32, 0x12345678#32]⟩ =
      some ⟨0x00000000#32, [0x000F6D68#32]⟩ := by decide +kernel

/-- 95_test_vectors.md: `MS64 20, 0x9e3779b97f4a7c15, 0x0123456789abcdef`. -/
theorem test_ms64 :
    served State.reset ⟨0x00001431#32, [0x7F4A7C15#32, 0x9E3779B9#32, 0x89ABCDEF#32, 0x01234567#32]⟩ =
      some ⟨0x00000000#32, [0x0000C93A#32, 0x00000000#32]⟩ := by decide +kernel

/-- 95_test_vectors.md: `MS128 20, 0x9e3779b97f4a7c15f39cc0605cedc835, 0x0123456789abcdeffedcba9876543210`. -/
theorem test_ms128 :
    served State.reset ⟨0x00001432#32, [0x5CEDC835#32, 0xF39CC060#32, 0x7F4A7C15#32, 0x9E3779B9#32, 0x76543210#32, 0xFEDCBA98#32, 0x89ABCDEF#32, 0x01234567#32]⟩ =
      some ⟨0x00000000#32, [0x0005E1B5#32, 0x00000000#32, 0x00000000#32, 0x00000000#32]⟩ := by decide +kernel

/-- 95_test_vectors.md: `MSS32 20, 0x9e3779b97f4a7c15, 0xf39cc0605cedc835, 0x12345678`. -/
theorem test_mss32 :
    served State.reset ⟨0x00001434#32, [0x7F4A7C15#32, 0x9E3779B9#32, 0x5CEDC835#32, 0xF39CC060#32, 0x12345678#32]⟩ =
      some ⟨0x00000000#32, [0x00085233#32]⟩ := by decide +kernel

/-- 95_test_vectors.md: `MSS64 20, 0x9e3779b97f4a7c15f39cc0605cedc835, 0x0f1e2d3c4b5a69788796a5b4c3d2e1f0, 0x0123456789abcdef`. -/
theorem test_mss64 :
    served State.reset ⟨0x00001435#32, [0x5CEDC835#32, 0xF39CC060#32, 0x7F4A7C15#32, 0x9E3779B9#32, 0xC3D2E1F0#32, 0x8796A5B4#32, 0x4B5A6978#32, 0x0F1E2D3C#32, 0x89ABCDEF#32, 0x01234567#32]⟩ =
      some ⟨0x00000000#32, [0x0001CC70#32, 0x00000000#32]⟩ := by decide +kernel

/-- 95_test_vectors.md: `MS32 32, 0xffffffff, 0xffffffff`. -/
theorem test_ms32_full_width :
    served State.reset ⟨0x00002030#32, [0xFFFFFFFF#32, 0xFFFFFFFF#32]⟩ =
      some ⟨0x00000000#32, [0x00000001#32]⟩ := by decide +kernel

/-- 95_test_vectors.md: `MSS32 32, 0xffffffffffffffff, 0xffffffffffffffff, 0xffffffff`. -/
theorem test_mss32_wraps :
    served State.reset ⟨0x00002034#32, [0xFFFFFFFF#32, 0xFFFFFFFF#32, 0xFFFFFFFF#32, 0xFFFFFFFF#32, 0xFFFFFFFF#32]⟩ =
      some ⟨0x00000000#32, [0xFFFFFFFF#32]⟩ := by decide +kernel

/-- 95_test_vectors.md: `MS64 64, 0x9e3779b97f4a7c15, 0x0123456789abcdef`. -/
theorem test_ms64_full_width :
    served State.reset ⟨0x00004031#32, [0x7F4A7C15#32, 0x9E3779B9#32, 0x89ABCDEF#32, 0x01234567#32]⟩ =
      some ⟨0x00000000#32, [0x9AEDA89B#32, 0x0C93A7B7#32]⟩ := by decide +kernel

/-- 95_test_vectors.md: `MS128 128, (same operands)`. -/
theorem test_ms128_full_width :
    served State.reset ⟨0x00008032#32, [0x5CEDC835#32, 0xF39CC060#32, 0x7F4A7C15#32, 0x9E3779B9#32, 0x76543210#32, 0xFEDCBA98#32, 0x89ABCDEF#32, 0x01234567#32]⟩ =
      some ⟨0x00000000#32, [0x5F5ADD50#32, 0xF60451F2#32, 0x11F59B42#32, 0x5E1B5F62#32]⟩ := by decide +kernel

/-- 95_test_vectors.md: `MSS64 64, (same operands)`. -/
theorem test_mss64_full_width :
    served State.reset ⟨0x00004035#32, [0x5CEDC835#32, 0xF39CC060#32, 0x7F4A7C15#32, 0x9E3779B9#32, 0xC3D2E1F0#32, 0x8796A5B4#32, 0x4B5A6978#32, 0x0F1E2D3C#32, 0x89ABCDEF#32, 0x01234567#32]⟩ =
      some ⟨0x00000000#32, [0x5ABF74CF#32, 0x1CC7022E#32]⟩ := by decide +kernel

/-- 95_test_vectors.md: `MSS128 20` on the operands of 42_multiply_shift.md R166. -/
theorem test_mss128_20 :
    served State.reset ⟨0x00001436#32, [0xC3D2E1F0#32, 0x8796A5B4#32, 0x4B5A6978#32, 0x0F1E2D3C#32, 0x5CEDC835#32, 0xF39CC060#32, 0x7F4A7C15#32, 0x9E3779B9#32, 0x5CEDC835#32, 0xF39CC060#32, 0x7F4A7C15#32, 0x9E3779B9#32, 0xC3D2E1F0#32, 0x8796A5B4#32, 0x4B5A6978#32, 0x0F1E2D3C#32, 0x76543210#32, 0xFEDCBA98#32, 0x89ABCDEF#32, 0x01234567#32]⟩ =
      some ⟨0x00000000#32, [0x0006D4AC#32, 0x00000000#32, 0x00000000#32, 0x00000000#32]⟩ := by decide +kernel

/-- 95_test_vectors.md: `MSS128 128` on the operands of 42_multiply_shift.md R166. -/
theorem test_mss128_128 :
    served State.reset ⟨0x00008036#32, [0xC3D2E1F0#32, 0x8796A5B4#32, 0x4B5A6978#32, 0x0F1E2D3C#32, 0x5CEDC835#32, 0xF39CC060#32, 0x7F4A7C15#32, 0x9E3779B9#32, 0x5CEDC835#32, 0xF39CC060#32, 0x7F4A7C15#32, 0x9E3779B9#32, 0xC3D2E1F0#32, 0x8796A5B4#32, 0x4B5A6978#32, 0x0F1E2D3C#32, 0x76543210#32, 0xFEDCBA98#32, 0x89ABCDEF#32, 0x01234567#32]⟩ =
      some ⟨0x00000000#32, [0xFC38EB7C#32, 0xE377393C#32, 0x08506B99#32, 0x6D4AC005#32]⟩ := by decide +kernel

/-! Vector block and pair filter, from sections 2.4 and 2.5. -/

/-- Section 2.4: `VDOT 32, a, b, x`. -/
theorem test_vdot :
    served State.reset ⟨0x00002040#32, dotPayload⟩ = some ⟨0, [0xF5ED9AC8#32]⟩ := by decide +kernel

/-- Section 2.4: `VDOT 33`. -/
theorem test_vdot_refuses_33 :
    served State.reset ⟨0x00002140#32, dotPayload⟩ = some ⟨3, []⟩ := by decide +kernel

/-- Section 2.4: `VDOTP 32, a, b, x`. -/
theorem test_vdotp :
    served State.reset ⟨0x00002041#32, dotPayload⟩ = some ⟨0, [0x85D99E8B#32]⟩ := by decide +kernel

/-- Section 2.4: `VDOTP 20, a, b, x`. -/
theorem test_vdotp_20 :
    served State.reset ⟨0x00001441#32, dotPayload⟩ = some ⟨0, [0x00085D99#32]⟩ := by decide +kernel

/-- Section 2.5 step 1. -/
theorem test_pfNew :
    ((after State.reset ⟨0x00000044#32, keyPayload 0x9E3779B97F4A7C15 ++ [0x89ABCDEF#32, 0x01234567#32]⟩).bind (·.pf[0]?)) =
      some ⟨true, ⟨keys0, 0x0123456789ABCDEF#64, 0, 0⟩⟩ := by decide +kernel

/-- Section 2.5 step 33, from the state after step 32. -/
theorem test_pfWrite :
    ((after (onPf ⟨keys0, 0x0123456789ABCDEF#64, 0xF4FC2042998ACA42#64, 30⟩) ⟨0x00000045#32, [0x3D006007#32, 0x3E00619A#32]⟩).bind
      (·.pf[0]?)) = some ⟨true, ⟨keys0, 0x0123456789ABCDEF#64, 0x25202AB0B8A344D1#64, 31⟩⟩ := by decide +kernel

/-- Section 2.5 step 37: the 33rd write, and STATUS after it. -/
theorem test_pfWrite_full :
    ((after (onPf ⟨keys0, 0, 0x84B65924546909E0#64, 32⟩) ⟨0x00000045#32, [0, 0]⟩).map
      fun t => (t.responses, t.status.word, t.pf[0]?.map (·.buf.cur))) = some ([⟨7, []⟩], 0x00000071#32, some 32) := by decide +kernel

/-- Section 2.5 steps 34 and 36. -/
theorem test_pfIsdone :
    (served (onPf ⟨keys0, 0, 0, 31⟩) ⟨0x00000046#32, []⟩, served (onPf ⟨keys0, 0, 0, 32⟩) ⟨0x00000046#32, []⟩) =
      (some ⟨0, [0]⟩, some ⟨0, [1]⟩) := by decide +kernel

/-- Section 2.8 step 19: a filter never configured. -/
theorem test_pfIsdone_invalid :
    served State.reset ⟨0x00000046#32, []⟩ = some ⟨5, []⟩ := by decide +kernel

/-- Section 2.5 step 38. -/
theorem test_pfFinish :
    ((after (onPf ⟨keys0, 0x0123456789ABCDEF#64, 0x84B65924546909E0#64, 32⟩) ⟨0x00002047#32, []⟩).map
      fun t => (t.responses, t.pf)) =
      some ([⟨0, [0x85D99E8B#32]⟩], [⟨true, ⟨keys0, 0x0123456789ABCDEF#64, 0, 0⟩⟩]) := by decide +kernel

/-- Section 2.5 step 44. -/
theorem test_pfFinish_refuses_33 :
    served (onPf ⟨keys0, 0, 0, 0⟩) ⟨0x00002147#32, []⟩ = some ⟨3, []⟩ := by decide +kernel

/-! Polynomial hasher, from section 2.6. -/

/-- Section 2.6 step 14. -/
theorem test_phNew :
    ((after State.reset ⟨0x00000050#32, [0xF0FEDCBA#32, 0x789ABCDE#32, 0x00123456#32, 0xFFFFFFFE#32, 0xFFFFFFFF#32, 0x001FFFFF#32,
      0x10012345#32, 0x98765432#32, 0x00FEDCBA#32]⟩).bind (·.ph[0]?)) =
      some ⟨true, 0x123456789ABCDEF0FEDCBA#89, 0x1FFFFFFFFFFFFFFFFFFFFE#89, 0xFEDCBA9876543210012345#89, 0⟩ := by decide +kernel

/-- Section 2.6 step 20: a coefficient equal to the prime. -/
theorem test_phNew_refuses_prime :
    ((after State.reset ⟨0x00010050#32, [0xFFFFFFFF#32, 0xFFFFFFFF#32, 0x01FFFFFF#32, 0, 0, 0, 0, 0, 0]⟩).map
      fun t => (t.responses, t.ph[1]?.map (·.valid))) = some ([⟨6, []⟩], some false) := by decide +kernel

/-- Section 2.6 step 16, from the state after step 15. -/
theorem test_phWrite :
    ((after (onPh 0x123456789ABCDEF0FEDCBA#89 0x1FFFFFFFFFFFFFFFFFFFFE#89 0xFEDCBA9876543210012345#89 0x0123456789ABCDEF#89)
      ⟨0x00000051#32, [0x76543210#32, 0xFEDCBA98#32]⟩).bind (fun t => t.ph[0]?.map (·.state))) =
      some 0x223824F5B97F8C23754C1C#89 := by decide +kernel

/-- Section 2.6 step 21. -/
theorem test_phWrite_invalid :
    served State.reset ⟨0x00010051#32, [1, 0]⟩ = some ⟨5, []⟩ := by decide +kernel

/-- Section 2.6 step 19, from the state after step 17. -/
theorem test_phFinish :
    ((after (onPh 0x123456789ABCDEF0FEDCBA#89 0x1FFFFFFFFFFFFFFFFFFFFE#89 0xFEDCBA9876543210012345#89 0x9C0476E65BAC1761970CA3#89)
      ⟨0x00005852#32, []⟩).map fun t => (t.responses, t.ph[0]?.map (·.state))) =
      some ([⟨0, [0x16D93597#32, 0x5D2F03BD#32, 0x00BABE3D#32]⟩], some 0) := by decide +kernel

/-- Section 2.8 steps 15 and 16: width before context, then the context. -/
theorem test_phFinish_order :
    (served State.reset ⟨0x00090052#32, []⟩, served State.reset ⟨0x00094052#32, []⟩) = (some ⟨3, []⟩, some ⟨4, []⟩) := by decide +kernel

/-! Pipeline, from section 2.7. -/

/-- Section 2.7 step 1. -/
theorem test_ppNew :
    ((after State.reset ⟨0x00000060#32, [1, 0, 0, 0, 0, 0, 2, 0, 0] ++ keyPayload 0x9E3779B97F4A7C15 ++ [0x89ABCDEF#32, 0x01234567#32] ++
      keyPayload 0xC2B2AE3D27D4EB4F ++ [0x76543210#32, 0xFEDCBA98#32]⟩).bind (·.pp[0]?)) =
      some ⟨true, 1, 0, 2, 0, ⟨keys0, 0x0123456789ABCDEF#64, 0, 0⟩, ⟨keys1, 0xFEDCBA9876543210#64, 0, 0⟩⟩ := by decide +kernel

/-- Section 2.8 step 17, for a pipeline: context before domain. -/
theorem test_ppNew_order :
    served State.reset ⟨0x00040060#32, [0xFFFFFFFF#32, 0xFFFFFFFF#32, 0x01FFFFFF#32] ++ List.replicate 266 0⟩ = some ⟨4, []⟩ := by decide +kernel

/-- Section 2.7 step 3, from the state after step 2. -/
theorem test_ppWrite :
    ((after (onPp 0 ⟨keys0, 0, 0x5CBFD3FF1BDB2F87#64, 1⟩ ⟨keys1, 0, 0x917EDF1A72193011#64, 1⟩) ⟨0x00000061#32, [2, 0]⟩).bind
      fun t => t.pp[0]?.map fun q => (q.f0.cur, q.f0.sum, q.f1.cur, q.f1.sum, q.state)) =
      some (2, 0x893ECBF9C2FE4CB1#64, 2, 0xFA7819B91EB05077#64, 0) := by decide +kernel

/-- Section 2.7 step 39, from the state after step 38: the write that flushes. -/
theorem test_ppWrite_flushes :
    ((after (onPp 0 ⟨keys0, 0x0123456789ABCDEF#64, 0x2CFDF23031A5BB30#64, 32⟩ ⟨keys1, 0xFEDCBA9876543210#64, 0x9577B50A3734CC50#64, 32⟩)
      ⟨0x00000061#32, [33, 0]⟩).bind fun t => t.pp[0]?.map fun q => (q.f0.cur, q.f0.sum, q.f1.cur, q.f1.sum, q.state)) =
      some (1, 0x23AF0B2F052AB227#64, 1, 0xE7D4A6BF6CB699F1#64, 0x94546FA22E213797#89) := by decide +kernel

/-- Section 2.7 step 5, from the state after step 4: a partial block. -/
theorem test_ppFinish :
    ((after (onPp 0 ⟨keys0, 0x0123456789ABCDEF#64, 0xF87C37EC64D6159A#64, 3⟩ ⟨keys1, 0xFEDCBA9876543210#64, 0x80E72C45CE2A2176#64, 3⟩)
      ⟨0x00004062#32, []⟩).map fun t => (t.responses, t.pp)) =
      some ([⟨0, [0xF99F7D53#32, 0x7FC3E6DE#32, 0]⟩],
        [⟨true, 1, 0, 2, 0, ⟨keys0, 0x0123456789ABCDEF#64, 0, 0⟩, ⟨keys1, 0xFEDCBA9876543210#64, 0, 0⟩⟩]) := by decide +kernel

/-- Section 2.7 step 6: nothing buffered, no flush. -/
theorem test_ppFinish_empty :
    served (onPp 0 ⟨keys0, 0x0123456789ABCDEF#64, 0, 0⟩ ⟨keys1, 0xFEDCBA9876543210#64, 0, 0⟩) ⟨0x00004062#32, []⟩ =
      some ⟨0, [0, 0, 0]⟩ := by decide +kernel

/-! STATUS, reset, the idle block. -/

/-- Section 2.8 steps 1 and 23. -/
theorem test_status :
    (served State.reset ⟨0x00000000#32, []⟩, served { State.reset with status := ⟨true, 6⟩ } ⟨0x00000000#32, []⟩) =
      (some ⟨0, [0]⟩, some ⟨0, [0x00000061#32]⟩) := by decide +kernel

/-- R291: a reset clears STATUS and VALID. -/
theorem test_reset_input :
    ((nextOf (step { onPh 1 0 2 11 with status := ⟨true, 5⟩, port := [.reset] })).map
      fun t => (t.status.word, t.ph.map (·.valid), t.responses)) = some (0, [false], []) := by decide +kernel

/-- R280: nothing pending. -/
theorem test_idle :
    nextOf (step (onPh 1 0 2 11)) = some (onPh 1 0 2 11) := by decide +kernel

/-! The host's two functions, and the assembler. -/

/-- The STATUS, MMP31 and PH.FINISH rows as table words; a word no row matches. -/
theorem test_decodeTableWord :
    (decodeTableWord 32 0, decodeTableWord 32 0x1E20, decodeTableWord 128 0x00002334_0000162E_000004D2_00001E20,
      decodeTableWord 32 0x94052, decodeTableWord 32 0x1) =
      (some .status, some (.mmp31 30 0 0 0), some (.mmp31 30 1234 5678 9012), some (.phFinish 9 64), none) := by decide +kernel

/-- The placed word is the next command run. -/
theorem test_withFetchWord :
    ((nextOf (step (State.reset.withFetchWord 128 0x00002334_0000162E_000004D2_00001E20))).map fun t => (t.responses, t.port)) =
      some ([⟨0, [0x00A9C6D6#32]⟩], []) := by decide +kernel

/-- R94, R95, R99, R100: the lines the rules write out. -/
theorem test_assemble_core :
    [assemble "PH.WRITE 0, 0xffffffffffffffff", assemble "PH.FINISH 0, 64", assemble "ph.finish 0",
      assemble "MOD5 20, [0xfffffffe,0xffffffff,0x1ffffff,0,0]"] =
      [some (.phWrite 0 0xFFFFFFFFFFFFFFFF), some (.phFinish 0 64), some (.phFinish 0 20),
        some (.mod5 20 0x1FFFFFFFFFFFFFFFFFFFFFE)] := by decide +kernel

/-- R96, R97, R98: the pseudo-instructions; a prime, a width or a limb count that does not exist is an error. -/
theorem test_assemble_pseudo :
    [assemble "mmp 61, 20, 1, 2, 3", assemble "multiply_shift 32, 20, 7, 9", assemble "multiply_shift_strong 64, 5, 1, 2, 3",
      assemble "multiply_add [1,0,0],[0,0,0],[5,0]", assemble "modulo [1,0,0,0,0]", assemble "mmp31 1234, 5678, 9012",
      assemble "mmp 13, 20, 1, 2, 3", assemble "multiply_shift 16, 20, 7, 9", assemble "modulo [1,0]"] =
      [some (.mmp61 20 1 2 3), some (.ms32 20 7 9), some (.mss64 5 1 2 3), some (.muladd 1 0 5), some (.mod5 20 1),
        some (.mmp31 30 1234 5678 9012), none, none, none] := by decide +kernel

/-- The choice of log 14: brackets do not nest, and a header number is no list. -/
theorem test_assemble_brackets :
    [assemble "MS32 [20], 7, 9", assemble "MS32 20, [7], 9", assemble "MS64 20, [[7],0], 9"] =
      [none, some (.ms32 20 7 9), none] := by decide +kernel

/-- R65: the bytes of a serialised word. -/
theorem test_wordsBytes : wordsBytes [0x04030201#32, 5#32] = [1, 2, 3, 4, 5, 0, 0, 0] := by decide +kernel

/-! Witnesses: for each statement of Obligations with hypotheses, values that meet them all, at the boundaries of its clauses. -/

/-- The packet of R101. -/
def mmpPacket : Packet := ⟨0x00001E20#32, [1234#32, 5678#32, 9012#32]⟩

/-- The block with a packet at the port. -/
def pending (p : Packet) : State := { State.reset with port := [.command p] }

/-- A filter with 32 words. -/
def fullFilter : FilterBuffer := ⟨keys0, 7, 9, 32⟩

/-- A filter with 31 words. -/
def almostFull : FilterBuffer := ⟨keys0, 7, 9, 31⟩

/-- A filter with nothing. -/
def emptyFilter : FilterBuffer := ⟨keys1, 7, 0, 0⟩

theorem witness_StepRunsDecodedCommand :
    (pending mmpPacket).port = .command mmpPacket :: [] ∧ decode mmpPacket = .ok (.mmp31 30 1234 5678 9012) :=
  ⟨rfl, rfl⟩

/-- A prime and a width that do not exist. -/
theorem witness_PseudoInstructionsExpand : 13 ∉ [31, 61, 89] ∧ 16 ∉ [32, 64, 128] := by decide

theorem witness_DecodeOfEncode : (Instr.ppFinish 15 255).WellFormed ∧ (Instr.mod5 255 (BitVec.allOnes 160)).WellFormed := by decide

theorem witness_EncodeOfDecode : decode ⟨0x000FFF62#32, []⟩ = .ok (.ppFinish 15 255) := rfl

theorem witness_TableRowsAreDisjoint :
    ∃ h : Word, ∃ r ∈ commandTable, ∃ r' ∈ commandTable, r.selects h = true ∧ r'.selects h = true :=
  ⟨0#32, ⟨"STATUS", maskH, 0x00#32, 0, 1, fun _ _ _ => .status⟩, by simp [commandTable, limbRows],
    ⟨"STATUS", maskH, 0x00#32, 0, 1, fun _ _ _ => .status⟩, by simp [commandTable, limbRows], by decide, by decide⟩

/-- A legal header at the top of every field, and headers illegal in one field only: RSV, OPC, L, CTX. -/
theorem witness_IllegalHeaderRaisesIllegal :
    (pending ⟨0x000FFF62#32, []⟩).port = .command ⟨0x000FFF62#32, []⟩ :: [] ∧
    isOk (decode ⟨0x000FFF62#32, []⟩) (.ppFinish 15 255) = true ∧
    [0x00100062#32, 0x00000063#32, 0x00000100#32, 0x00000151#32, 0x00010000#32, 0x00010130#32].all
      (fun h => isErr (decode ⟨h, []⟩) .illegal) = true := by decide +kernel

/-- One word too many and one too few. -/
theorem witness_WrongLengthRaisesLength :
    (pending ⟨0#32, [0#32]⟩).port = .command ⟨0#32, [0#32]⟩ :: [] ∧ Instr.status.WellFormed ∧
    (0#32 : Word) = (encode .status).header ∧ [0#32].length ≠ Instr.status.payloadWords ∧
    (Instr.ms32 20 1 1).WellFormed ∧ (0x1430#32 : Word) = (encode (.ms32 20 1 1)).header ∧
    [1#32].length ≠ (Instr.ms32 20 1 1).payloadWords := by decide +kernel

theorem witness_IdleBlockHoldsState : State.reset.port = [] := rfl

theorem witness_ResetInputClears :
    ({ onPf fullFilter with status := ⟨true, 7⟩, port := [.reset, .reset] } : State).port = .reset :: [.reset] := rfl

theorem witness_ResetLeavesSpecValues : 0 < 16 ∧ 15 < 16 ∧ ((State.resetWith 16 16 16).ph[15]?).isSome = true := by decide +kernel

/-- A success and a failure. -/
theorem witness_CommandSucceedsOrOnlyFails :
    (∃ t, exec (.ms32 32 1 1) State.reset = .next t) ∧ (∃ t, exec (.ms32 33 1 1) State.reset = .next t) := ⟨⟨_, rfl⟩, ⟨_, rfl⟩⟩

theorem witness_IllegalWidthRaisesWidth :
    (Instr.mod5 0 1).widthOperand = some 0 ∧ (Instr.mod5 89 1).widthOperand = some 89 ∧ (Instr.mod5 89 1).maxWidth < 89 ∧
    exec (.mod5 0 1) State.reset = .next (State.reset.failing 3) := ⟨rfl, rfl, by decide, rfl⟩

theorem witness_ContextOutOfRangeRaisesCtx :
    (Instr.phFinish 4 88).WidthLegal ∧ (Instr.phFinish 4 88).context = some (.ph 4) ∧ ¬ ContextExists State.reset (.ph 4) ∧
    (Instr.pfWrite 4 0).WidthLegal ∧ (Instr.pfWrite 4 0).context = some (.pf 4) ∧ ¬ ContextExists State.reset (.pf 4) ∧
    (Instr.ppFinish 4 1).WidthLegal ∧ (Instr.ppFinish 4 1).context = some (.pp 4) ∧ ¬ ContextExists State.reset (.pp 4) ∧
    exec (.ppFinish 4 1) State.reset = .next (State.reset.failing 4) := by
  refine ⟨?_, ?_, ?_, ?_, ?_, ?_, ?_, ?_, ?_, rfl⟩ <;>
  simp [Instr.WidthLegal, Instr.widthOperand, Instr.maxWidth, Instr.context, ContextExists, State.reset, State.resetWith,
    Config.nPH, Config.nPF, Config.nPP]

theorem witness_InvalidContextRaisesInvalid :
    (Instr.phFinish 3 88).WidthLegal ∧ (Instr.phFinish 3 88).isNew = false ∧ (Instr.phFinish 3 88).context = some (.ph 3) ∧
    ContextInvalid State.reset (.ph 3) ∧ (Instr.pfIsdone 0).WidthLegal ∧ (Instr.pfIsdone 0).isNew = false ∧
    ContextInvalid State.reset (.pf 0) ∧ ContextInvalid State.reset (.pp 0) ∧
    exec (.pfIsdone 0) State.reset = .next (State.reset.failing 5) ∧
    (∃ t, exec (.phNew 3 1 0 2) State.reset = .next t ∧ ¬ ContextInvalid t (.ph 3)) :=
  ⟨by simp [Instr.WidthLegal, Instr.widthOperand, Instr.maxWidth], rfl, rfl, ⟨_, rfl, rfl⟩,
    by simp [Instr.WidthLegal, Instr.widthOperand], rfl, ⟨_, rfl, rfl⟩, ⟨_, rfl, rfl⟩, rfl,
    ⟨_, rfl, by rintro ⟨c, h, hv⟩; cases h; cases hv⟩⟩

/-- Operands at the bound (refused) and one below it (accepted). -/
theorem witness_OperandOutsideDomainRaisesDomain :
    (Instr.mmp31 30 0x7FFFFFFF 0 0).WidthLegal ∧ (∀ n, (Instr.mmp31 30 0x7FFFFFFF 0 0).context = some n → ContextExists State.reset n) ∧
    (Instr.mmp31 30 0x7FFFFFFF 0 0).inDomain = false ∧ (Instr.phNew 3 (BitVec.ofNat 96 (2 ^ 89 - 1)) 0 0).inDomain = false ∧
    (Instr.phNew 3 (BitVec.ofNat 96 (2 ^ 89 - 1)) 0 0).context = some (.ph 3) ∧ ContextExists State.reset (.ph 3) ∧
    (Instr.mmp31 30 0x7FFFFFFE 0x7FFFFFFE 0x7FFFFFFE).inDomain = true ∧
    (Instr.red6a3 (BitVec.ofNat 192 (2 ^ 178 - 1)) (BitVec.ofNat 96 (2 ^ 89 - 1))).inDomain = true :=
  ⟨by simp [Instr.WidthLegal, Instr.widthOperand, Instr.maxWidth], by simp [Instr.context], by decide, by decide, rfl,
    by simp [ContextExists, State.reset, State.resetWith, Config.nPH], by decide, by decide⟩

theorem witness_FullFilterRefusesWrite :
    (onPf fullFilter).pf[0]? = some ⟨true, fullFilter⟩ ∧ fullFilter.cur = 32 ∧
    exec (.pfWrite 0 5) (onPf fullFilter) = .next ((onPf fullFilter).failing 7) := ⟨rfl, rfl, rfl⟩

/-- The first and the last code, and a command after them that succeeds. -/
theorem witness_StatusKeepsLastFailure :
    (∃ t, execAll [.ms32 32 1 1, .status] (State.reset.failing 1) = .next t ∧
      ∀ r ∈ t.responses.drop (State.reset.failing 1).responses.length, r.status = 0) ∧
    (∃ t, execAll [] (State.reset.failing 7) = .next t ∧
      ∀ r ∈ t.responses.drop (State.reset.failing 7).responses.length, r.status = 0) :=
  ⟨⟨_, rfl, by decide +kernel⟩, ⟨_, rfl, by decide +kernel⟩⟩

theorem witness_StatusNeverConsulted :
    Instr.phWrite 0 5 ≠ .status ∧ ∃ t, exec (.phWrite 0 5) (onPh 1 0 2 11) = .next t := ⟨by decide, ⟨_, rfl⟩⟩

theorem witness_LimbRoutinesAreExact :
    [0xFFFFFFFF#32, 0xFFFFFFFF#32, 0xFFFFFFFF#32].length = 3 ∧ [0#32, 0#32, 0#32].length = 3 := by decide

theorem witness_ConditionalSubtraction :
    p89Limbs.length = 3 ∧ val p89Limbs = Config.p89 ∧ [0xFFFFFFFE#32, 0xFFFFFFFF#32, 0x01FFFFFF#32].length = 3 := by decide +kernel

/-- The largest operands of the domain; and sums at `P89 − 1`, `P89`, `2·P89 − 1` and `2·P89`. -/
theorem witness_ReductionThreeCases :
    (limbs 6 (2 ^ 178 - 1)).length = 6 ∧ (limbs 3 (2 ^ 89 - 1)).length = 3 ∧ val (limbs 6 (2 ^ 178 - 1)) < 2 ^ 178 ∧
    val (limbs 3 (2 ^ 89 - 1)) < 2 ^ 89 ∧ val (limbs 6 (2 ^ 178 - 1)) % 2 ^ 89 + val (limbs 6 (2 ^ 178 - 1)) / 2 ^ 89 = 2 * Config.p89 ∧
    val (limbs 6 (Config.p89 - 1)) % 2 ^ 89 + val (limbs 6 (Config.p89 - 1)) / 2 ^ 89 + val (limbs 3 0) = Config.p89 - 1 ∧
    val (limbs 6 (Config.p89 - 1)) % 2 ^ 89 + val (limbs 6 (Config.p89 - 1)) / 2 ^ 89 + val (limbs 3 1) = Config.p89 ∧
    val (limbs 6 (Config.p89 - 1)) % 2 ^ 89 + val (limbs 6 (Config.p89 - 1)) / 2 ^ 89 + val (limbs 3 Config.p89) =
      2 * Config.p89 - 1 := by decide +kernel

/-- The sum at `3·P89` and at `3·P89 − 1`. -/
theorem witness_ReductionCorrectness :
    (limbs 6 (2 ^ 178 - 1)).length = 6 ∧ (limbs 3 Config.p89).length = 3 ∧ val (limbs 6 (2 ^ 178 - 1)) < 2 ^ 178 ∧
    val (limbs 3 Config.p89) < 2 ^ 89 ∧
    val (limbs 6 (2 ^ 178 - 1)) % 2 ^ 89 + val (limbs 6 (2 ^ 178 - 1)) / 2 ^ 89 + val (limbs 3 Config.p89) = 3 * Config.p89 ∧
    val (limbs 6 (2 ^ 178 - 1)) % 2 ^ 89 + val (limbs 6 (2 ^ 178 - 1)) / 2 ^ 89 + val (limbs 3 (Config.p89 - 1)) =
      3 * Config.p89 - 1 := by decide +kernel

theorem witness_TwoSubtractionsSuffice : Config.p89 ≤ Config.p89 ∧ Config.p89 - 1 ≤ Config.p89 := by decide

/-- Outside by the one bound, outside by the other, and the largest operands inside. -/
theorem witness_ReduceCommandAnswers :
    ¬ ((BitVec.ofNat 192 (2 ^ 178)).toNat < 2 ^ 178 ∧ (0 : BitVec 96).toNat < 2 ^ 89) ∧
    ¬ ((0 : BitVec 192).toNat < 2 ^ 178 ∧ (BitVec.ofNat 96 (2 ^ 89)).toNat < 2 ^ 89) ∧
    ((BitVec.ofNat 192 (2 ^ 178 - 1)).toNat < 2 ^ 178 ∧ (BitVec.ofNat 96 (2 ^ 89 - 1)).toNat < 2 ^ 89) := by decide

theorem witness_FoldIsResidue :
    (2 ^ 31 - 2) * (2 ^ 31 - 1) ≤ (2 ^ 31 - 2) * (2 ^ 31 - 1) ∧ 2 ^ 31 - 2 < 2 ^ 31 - 1 ∧
    (2 ^ 61 - 2) * (2 ^ 61 - 1) ≤ (2 ^ 61 - 2) * (2 ^ 61 - 1) ∧ 2 ^ 61 - 2 < 2 ^ 61 - 1 := by decide

theorem witness_TwoDataPathsAgree :
    (BitVec.ofNat 96 (Config.p89 - 1)).toNat < Config.p89 ∧ (0 : BitVec 96).toNat < Config.p89 := by decide

theorem witness_DigestsBelowTwoToL :
    (Instr.ms32 1 0xFFFFFFFF 1).widthOperand = some 1 ∧
    ∃ t, exec (.ms32 1 0xFFFFFFFF 1) State.reset = .next t ∧ t.responses = State.reset.responses ++ [⟨0, [1#32]⟩] :=
  ⟨rfl, _, rfl, by decide +kernel⟩

theorem witness_PairFilterCommandsAnswer :
    3 < State.reset.pf.length ∧ (onPf fullFilter).pf[0]? = some ⟨true, fullFilter⟩ ∧
    (onPf emptyFilter).pf[0]? = some ⟨true, emptyFilter⟩ := ⟨by decide, rfl, rfl⟩

theorem witness_PairFilterWriteAccumulates :
    almostFull.cur < 32 ∧ (onPf almostFull).pf[0]? = some ⟨true, almostFull⟩ ∧
    emptyFilter.cur < 32 ∧ (onPf emptyFilter).pf[0]? = some ⟨true, emptyFilter⟩ := ⟨by decide, rfl, by decide, rfl⟩

/-- No word and 32 words; and lanes that are the words' halves. -/
theorem witness_FilterAgreesWithOneShot :
    3 < State.reset.pf.length ∧ ([] : List (BitVec 64)).length ≤ 32 ∧ (List.replicate 32 (5 : BitVec 64)).length = 32 ∧
    ∀ i : Fin 32, ((Vector.ofFn fun n : Fin 64 => if n.val % 2 = 0 then 5#32 else 0#32 : Lanes)[2 * i.val]).toNat =
        ((List.replicate 32 (5 : BitVec 64)).getD i.val 0).toNat % 2 ^ 32 ∧
      ((Vector.ofFn fun n : Fin 64 => if n.val % 2 = 0 then 5#32 else 0#32 : Lanes)[2 * i.val + 1]).toNat =
        ((List.replicate 32 (5 : BitVec 64)).getD i.val 0).toNat / 2 ^ 32 := by decide +kernel

theorem witness_PolynomialHasherCommandsAnswer :
    3 < State.reset.ph.length ∧ (BitVec.ofNat 96 (Config.p89 - 1)).toNat < Config.p89 ∧
    (onPh 1 0 2 11).ph[0]? = some ⟨true, 1, 0, 2, 11⟩ := ⟨by decide, by decide, rfl⟩

theorem witness_LimbRealisationOfHasher :
    (BitVec.ofNat 89 (Config.p89 - 1)).toNat < Config.p89 ∧ (0 : FieldElement).toNat < Config.p89 := by decide

theorem witness_HornerClosedForm :
    3 < State.reset.ph.length ∧ (BitVec.ofNat 96 (Config.p89 - 1)).toNat < Config.p89 ∧ (1 ≤ 88 ∧ 88 ≤ 88) := by decide

/-- A pipeline with words buffered and one without. -/
theorem witness_PipelineNewAndFinishAnswer :
    3 < State.reset.pp.length ∧ (onPp 3 fullFilter fullFilter).pp[0]? = some ⟨true, 1, 0, 2, 3, fullFilter, fullFilter⟩ ∧
    PpContext.Ok ⟨true, 1, 0, 2, 3, fullFilter, fullFilter⟩ ∧ PpContext.Ok ⟨true, 1, 0, 2, 3, emptyFilter, emptyFilter⟩ :=
  ⟨by decide, rfl, by decide +kernel, by decide +kernel⟩

theorem witness_PipelineWriteAnswers :
    (onPp 3 fullFilter fullFilter).pp[0]? = some ⟨true, 1, 0, 2, 3, fullFilter, fullFilter⟩ ∧ fullFilter.cur ≤ 32 ∧
    (onPp 3 almostFull almostFull).pp[0]? = some ⟨true, 1, 0, 2, 3, almostFull, almostFull⟩ ∧ almostFull.cur ≤ 32 :=
  ⟨rfl, by decide, rfl, by decide⟩

theorem witness_PipelineIsHasherOfCombinedWords :
    3 < State.reset.pp.length ∧ 3 < State.reset.ph.length ∧ (BitVec.ofNat 96 (Config.p89 - 1)).toNat < Config.p89 := by decide

theorem witness_FinishRestoresFreshContext :
    (∃ u t, exec (.phNew 0 1 0 2) State.reset = .next u ∧ execAll ([5].map (.phWrite 0) ++ [.phFinish 0 88]) u = .next t) ∧
    (∃ u t, exec (.pfNew 0 keys0 7) State.reset = .next u ∧ execAll ([5].map (.pfWrite 0) ++ [.pfFinish 0 32]) u = .next t) ∧
    (∃ u t, exec (.ppNew 0 1 0 2 keys0 7 keys1 9) State.reset = .next u ∧
      execAll ([5].map (.ppWrite 0) ++ [.ppFinish 0 88]) u = .next t) :=
  ⟨⟨_, _, rfl, rfl⟩, ⟨_, _, rfl, rfl⟩, ⟨_, _, rfl, rfl⟩⟩

theorem witness_OtherContextsUntouched :
    (∃ t, exec (.phWrite 0 5) (onPh 1 0 2 11) = .next t) ∧ (Instr.phWrite 0 5).context ≠ some (.ph 1) ∧
    (Instr.phWrite 0 5).context ≠ some (.pf 0) := ⟨⟨_, rfl⟩, by decide, by decide⟩

/-- Two states that differ in STATUS and in a context the command does not name. -/
theorem witness_AnswerDependsOnNamedContext :
    (Instr.phWrite 0 5 = .status → (onPh 1 0 2 11).status = (onPh 1 0 2 11).status) ∧
    (∀ n, (Instr.phWrite 0 5).context = some n → SameContext (onPh 1 0 2 11) { onPh 1 0 2 11 with pf := [⟨true, fullFilter⟩] } n) ∧
    (∃ t, exec (.phWrite 0 5) (onPh 1 0 2 11) = .next t) :=
  ⟨fun _ => rfl, by intro n h; cases h; rfl, ⟨_, rfl⟩⟩

theorem witness_OnlyNewWritesCoefficients :
    (∃ t, exec (.ppWrite 0 5) (onPp 3 fullFilter fullFilter) = .next t) ∧ (Instr.ppWrite 0 5).isNew = false := ⟨⟨_, rfl⟩, rfl⟩

theorem witness_ValidIsSetByNewOnly :
    (∃ t, exec (.phNew 1 1 0 2) State.reset = .next t) ∧ (∃ t, exec (.ppFinish 0 88) (onPp 3 fullFilter fullFilter) = .next t) ∧
    (onPp 3 fullFilter fullFilter).pp[0]? = some ⟨true, 1, 0, 2, 3, fullFilter, fullFilter⟩ := ⟨⟨_, rfl⟩, ⟨_, rfl⟩, rfl⟩

/-- The invariant with a full pipeline, and a step from there. -/
theorem witness_StepKeepsInvariant :
    ({ onPp 3 fullFilter fullFilter with port := [.command ⟨0x61#32, [5, 0]⟩] } : State).Inv ∧
    ∃ t, step { onPp 3 fullFilter fullFilter with port := [.command ⟨0x61#32, [5, 0]⟩] } = .next t :=
  ⟨by decide +kernel, ⟨_, rfl⟩⟩

theorem witness_ResetMeetsInvariant : 1 ≤ 1 ∧ 1 ≤ 16 ∧ 16 ≤ 16 := by decide

theorem witness_ValidStateAlwaysAnswers : (onPf fullFilter).Inv := by decide +kernel

theorem witness_RunAnswersEveryPacket :
    ({ onPf fullFilter with port := [mmpPacket, ⟨0xFF#32, []⟩].map .command } : State).Inv ∧
    ({ onPf fullFilter with port := [mmpPacket, ⟨0xFF#32, []⟩].map .command } : State).port = [mmpPacket, ⟨0xFF#32, []⟩].map .command ∧
    0 ≤ 2 ∧ 2 ≤ [mmpPacket, ⟨0xFF#32, []⟩].length := ⟨by decide +kernel, rfl, by decide, by decide⟩

/-- Two states that differ in the contents of a filter that is not valid. -/
theorem witness_UnspecifiedContentsUnobservable :
    State.Alike { State.reset with pf := [⟨false, fullFilter⟩], port := [.command ⟨0x47#32, []⟩] }
      { State.reset with pf := [⟨false, emptyFilter⟩], port := [.command ⟨0x47#32, []⟩] } ∧
    ∃ t, step { State.reset with pf := [⟨false, fullFilter⟩], port := [.command ⟨0x47#32, []⟩] } = .next t :=
  ⟨by decide +kernel, ⟨_, rfl⟩⟩

end Sys2Proof.Tests
end

section
/-! What a command can do, said once for every property of the state it answers with: `Result.Ensures P` passes through the checks of
R264, so a command's proof is left with its own update only. -/

namespace Sys2Proof.Machine

/-- Every state the result answers with has the property `P`. -/
def Result.Ensures (r : Result) (P : State → Prop) : Prop := ∀ t, r = .next t → P t

section
variable {s : State} {P : State → Prop}

theorem ensures_next (h : P s) : Result.Ensures (.next s) P := by
  intro t ht; cases ht; exact h

theorem ensures_fault (r : Fault) : Result.Ensures (.fault r) P := by
  intro t ht; cases ht

theorem ensures_reply (ws : List Word) (h : P (s.answering ws)) : (reply ws s).Ensures P := ensures_next h

theorem ensures_replyValue (n v : Nat) (h : P (s.answering (limbs n v))) : (replyValue n v s).Ensures P := ensures_next h

variable (hf : ∀ e : DomainError, P (s.failing (errorCode e).toNat))
include hf

theorem ensures_raise (e : DomainError) : (raise e s).Ensures P := by
  rw [raise_eq]; exact ensures_next (hf e)

theorem ensures_checkWidth {m l : Nat} {go : Result} (hgo : go.Ensures P) : (checkWidth m l s go).Ensures P := by
  intro t h
  obtain ⟨-, rfl⟩ | ⟨-, h⟩ := checkWidth_next h
  · exact hf .width
  · exact hgo t h

theorem ensures_checkDomain {b : Bool} {go : Result} (hgo : b = true → go.Ensures P) : (checkDomain b s go).Ensures P := by
  intro t h
  obtain ⟨-, rfl⟩ | ⟨hb, h⟩ := checkDomain_next h
  · exact hf .domain
  · exact hgo hb t h

theorem ensures_withContext {γ : Type} {file : List γ} {ctx : Nat} {go : γ → Result}
    (hgo : ∀ c, file[ctx]? = some c → (go c).Ensures P) : (withContext file ctx s go).Ensures P := by
  intro t h
  obtain ⟨-, rfl⟩ | ⟨c, hc, h⟩ := withContext_next h
  · exact hf .ctx
  · exact hgo c hc t h

theorem ensures_checkValid {b : Bool} {go : Result} (hgo : b = true → go.Ensures P) : (checkValid b s go).Ensures P := by
  intro t h
  obtain ⟨-, rfl⟩ | ⟨hb, h⟩ := checkValid_next h
  · exact hf .invalid
  · exact hgo hb t h

/-- A command that names no context fails, or gives its response, and does nothing else to the state. -/
theorem ensures_exec_of_context_none {i : Instr} (hi : i.context = none) (ha : ∀ ws, P (s.answering ws)) :
    Result.Ensures (exec i s) P := by
  cases i with
  | status | mul3x1 | mul3x1a3 | mul3x2 | muladd | mul3x3 => exact ensures_reply _ (ha _)
  | red6a3 => exact ensures_checkDomain hf fun _ => ensures_reply _ (ha _)
  | mod5 | ms32 | ms64 | ms128 | mss32 | mss64 | mss128 | vdot | vdotp =>
    exact ensures_checkWidth hf (ensures_replyValue _ _ (ha _))
  | mmp31 | mmp61 | mmp89 | mmp31x3 =>
    exact ensures_checkWidth hf (ensures_checkDomain hf fun _ => ensures_replyValue _ _ (ha _))
  | pfNew | pfWrite | pfIsdone | pfFinish | phNew | phWrite | phFinish | ppNew | ppWrite | ppFinish => cases hi

end

end Sys2Proof.Machine
end

section
/-! The invariant of each kind of context is kept by every procedure that writes one (R35, R37, R38). -/

namespace Sys2Proof.Machine

theorem zero_lt_p89 : (0 : FieldElement).toNat < Config.p89 := by decide

theorem storeElement_lt {v : BitVec 96} (h : isFieldElement v = true) : (storeElement v).toNat < Config.p89 := by
  rw [storeElement_toNat h]; exact of_decide_eq_true h

theorem fbNew_ok (k : Keys) (kb : Key) : (fbNew k kb).Ok := ⟨Nat.zero_le _, fun _ => rfl⟩

theorem fbEmptied_ok (f : FilterBuffer) : (fbEmptied f).Ok := ⟨Nat.zero_le _, fun _ => rfl⟩

/-- A write is possible below the capacity only, and leaves a cursor that is not 0. -/
theorem fbWrite_ok {f g : FilterBuffer} {x : BitVec 64} (h : fbWrite f x = some g) : g.Ok := by
  obtain ⟨hlt, -, -, hcur⟩ := fbWrite_frame h
  exact ⟨by omega, fun h0 => by omega⟩

theorem PhContext.Ok.withState {c : PhContext} (hc : c.Ok) {x : FieldElement} (hx : x.toNat < Config.p89) :
    ({ c with state := x } : PhContext).Ok := by
  intro hv
  obtain ⟨ha, hb, hcc, -⟩ := hc hv
  exact ⟨ha, hb, hcc, hx⟩

theorem PpContext.Ok.withState {q : PpContext} (hq : q.Ok) {x : FieldElement} (hx : x.toNat < Config.p89) :
    ({ q with state := x } : PpContext).Ok := by
  intro hv
  obtain ⟨⟨ha, hb, hc, -⟩, hbufs⟩ := hq hv
  exact ⟨⟨ha, hb, hc, hx⟩, hbufs⟩

/-- Both buffers of a pipeline may be replaced together by buffers with equal cursors. -/
theorem PpContext.Ok.withBuffers {q : PpContext} (hq : q.Ok) {f0 f1 : FilterBuffer} (h0 : f0.Ok) (h1 : f1.Ok)
    (hcur : f0.cur = f1.cur) : ({ q with f0 := f0, f1 := f1 } : PpContext).Ok := by
  intro hv
  obtain ⟨hfields, -⟩ := hq hv
  exact ⟨hfields, h0, h1, hcur⟩

theorem PpContext.Ok.flush {q : PpContext} (hq : q.Ok) : (ppFlush q).Ok :=
  (hq.withState (phWrite_lt _ _ _)).withBuffers (fbEmptied_ok _) (fbEmptied_ok _) rfl

theorem PpContext.Ok.beforeWrite {q : PpContext} (hq : q.Ok) : (ppBeforeWrite q).Ok := by
  unfold ppBeforeWrite
  split
  · exact hq.flush
  · exact hq

theorem PpContext.Ok.beforeFinish {q : PpContext} (hq : q.Ok) : (ppBeforeFinish q).Ok := by
  unfold ppBeforeFinish
  split
  · exact hq.flush
  · exact hq

@[simp] theorem ppBeforeWrite_valid (q : PpContext) : (ppBeforeWrite q).valid = q.valid := by
  unfold ppBeforeWrite; split <;> rfl

/-- All that feeding a pipeline can do: both filters take the word, or one of them has no slot for it. -/
theorem ppFeed_eq_some {q q' : PpContext} {x : BitVec 64} (h : ppFeed q x = some q') :
    ∃ f0 f1, fbWrite q.f0 x = some f0 ∧ fbWrite q.f1 x = some f1 ∧ q' = { q with f0 := f0, f1 := f1 } := by
  unfold ppFeed at h
  split at h
  next f0 f1 h0 h1 => cases h; exact ⟨f0, f1, h0, h1, rfl⟩
  next => cases h

/-- The filters of a valid pipeline go in lock-step (R235). -/
theorem PpContext.Ok.feed {q q' : PpContext} {x : BitVec 64} (hq : q.Ok) (hv : q.valid = true) (h : ppFeed q x = some q') :
    q'.Ok := by
  obtain ⟨f0, f1, h0, h1, rfl⟩ := ppFeed_eq_some h
  obtain ⟨-, -, -, hcur0⟩ := fbWrite_frame h0
  obtain ⟨-, -, -, hcur1⟩ := fbWrite_frame h1
  obtain ⟨-, -, -, hcur⟩ := hq hv
  exact hq.withBuffers (fbWrite_ok h0) (fbWrite_ok h1) (by omega)

end Sys2Proof.Machine
end

section
/-! The invariant of the block is kept by every operation on the state. -/

namespace Sys2Proof.Machine

theorem clearedStatus_ok : Status.cleared.Ok := by decide

/-- The numbering of R261 gives every exception a nonzero code of at most 7. -/
theorem failedStatus_ok (e : DomainError) : Status.Ok ⟨true, BitVec.ofNat 4 (errorCode e).toNat⟩ := by
  cases e <;> decide

section
variable {s : State} (hs : s.Inv)
include hs

theorem State.Inv.setPort (es : List PortEvent) : ({ s with port := es } : State).Inv := hs

theorem State.Inv.answering (ws : List Word) : (s.answering ws).Inv := hs

theorem State.Inv.failing (e : DomainError) : (s.failing (errorCode e).toNat).Inv := by
  obtain ⟨hsizes, -, hctx⟩ := hs
  exact ⟨hsizes, failedStatus_ok e, hctx⟩

theorem State.Inv.setPh (i : Nat) {c : PhContext} (hc : c.Ok) : (s.setPh i c).Inv := by
  obtain ⟨⟨hph, hpf, hpp⟩, hst, hphs, hpfs, hpps⟩ := hs
  refine ⟨⟨by simpa using hph, hpf, hpp⟩, hst, fun d hd => ?_, hpfs, hpps⟩
  obtain hd | rfl := List.mem_or_eq_of_mem_set hd
  · exact hphs d hd
  · exact hc

theorem State.Inv.setPf (j : Nat) {c : PfContext} (hc : c.Ok) : (s.setPf j c).Inv := by
  obtain ⟨⟨hph, hpf, hpp⟩, hst, hphs, hpfs, hpps⟩ := hs
  refine ⟨⟨hph, by simpa using hpf, hpp⟩, hst, hphs, fun d hd => ?_, hpps⟩
  obtain hd | rfl := List.mem_or_eq_of_mem_set hd
  · exact hpfs d hd
  · exact hc

theorem State.Inv.setPp (k : Nat) {q : PpContext} (hq : q.Ok) : (s.setPp k q).Inv := by
  obtain ⟨⟨hph, hpf, hpp⟩, hst, hphs, hpfs, hpps⟩ := hs
  refine ⟨⟨hph, hpf, by simpa using hpp⟩, hst, hphs, hpfs, fun d hd => ?_⟩
  obtain hd | rfl := List.mem_or_eq_of_mem_set hd
  · exact hpps d hd
  · exact hq

/-- Reset leaves the sizes and makes every context invalid (R291). -/
theorem State.Inv.applyReset : s.applyReset.Inv := by
  obtain ⟨hsizes, -⟩ := hs
  refine ⟨by simpa [State.SizesOk] using hsizes, clearedStatus_ok, fun c hc => ?_, fun c hc => ?_, fun c hc => ?_⟩ <;>
  · obtain ⟨-, -, rfl⟩ := List.mem_map.mp hc
    exact fun hv => Bool.noConfusion hv

theorem State.Inv.ph_ok {i : Nat} {c : PhContext} (hc : s.ph[i]? = some c) : c.Ok := by
  obtain ⟨-, -, hphs, -⟩ := hs
  exact hphs c (List.mem_of_getElem? hc)

theorem State.Inv.pf_ok {j : Nat} {c : PfContext} (hc : s.pf[j]? = some c) : c.Ok := by
  obtain ⟨-, -, -, hpfs, -⟩ := hs
  exact hpfs c (List.mem_of_getElem? hc)

theorem State.Inv.pp_ok {k : Nat} {q : PpContext} (hq : s.pp[k]? = some q) : q.Ok := by
  obtain ⟨-, -, -, -, hpps⟩ := hs
  exact hpps q (List.mem_of_getElem? hq)

end

end Sys2Proof.Machine
end

section
/-! The invariant of the block is kept by every command, and so by every step. -/

namespace Sys2Proof.Machine

section
variable {s : State} (hs : s.Inv)
include hs

theorem execPhNew_keeps_inv (ctx : Nat) (a b c : BitVec 96) : (execPhNew ctx a b c s).Ensures State.Inv := by
  refine ensures_withContext hs.failing fun _ _ => ensures_checkDomain hs.failing fun hd => ?_
  simp only [Bool.and_eq_true] at hd
  obtain ⟨⟨ha, hb⟩, hc⟩ := hd
  exact ensures_reply _ <| (hs.setPh ctx fun _ =>
    ⟨storeElement_lt ha, storeElement_lt hb, storeElement_lt hc, zero_lt_p89⟩).answering _

theorem execPhWrite_keeps_inv (ctx : Nat) (x : BitVec 64) : (execPhWrite ctx x s).Ensures State.Inv :=
  ensures_withContext hs.failing fun _ hc => ensures_checkValid hs.failing fun _ =>
    ensures_reply _ <| (hs.setPh ctx ((hs.ph_ok hc).withState (phWrite_lt _ _ _))).answering _

theorem execPhFinish_keeps_inv (ctx l : Nat) : (execPhFinish ctx l s).Ensures State.Inv :=
  ensures_checkWidth hs.failing <| ensures_withContext hs.failing fun _ hc => ensures_checkValid hs.failing fun _ =>
    ensures_replyValue _ _ <| (hs.setPh ctx ((hs.ph_ok hc).withState zero_lt_p89)).answering _

theorem execPfNew_keeps_inv (ctx : Nat) (k : Keys) (kb : Key) : (execPfNew ctx k kb s).Ensures State.Inv :=
  ensures_withContext hs.failing fun _ _ => ensures_reply _ <| (hs.setPf ctx fun _ => fbNew_ok k kb).answering _

theorem execPfWrite_keeps_inv (ctx : Nat) (x : BitVec 64) : (execPfWrite ctx x s).Ensures State.Inv := by
  refine ensures_withContext hs.failing fun c _ => ensures_checkValid hs.failing fun _ => ?_
  split
  next => exact ensures_raise hs.failing .full
  next =>
    split
    next buf hw => exact ensures_reply _ <| (hs.setPf ctx fun _ => fbWrite_ok hw).answering _
    next => exact ensures_fault _

theorem execPfIsdone_keeps_inv (ctx : Nat) : (execPfIsdone ctx s).Ensures State.Inv :=
  ensures_withContext hs.failing fun _ _ => ensures_checkValid hs.failing fun _ =>
    ensures_replyValue _ _ (hs.answering _)

theorem execPfFinish_keeps_inv (ctx l : Nat) : (execPfFinish ctx l s).Ensures State.Inv :=
  ensures_checkWidth hs.failing <| ensures_withContext hs.failing fun _ _ => ensures_checkValid hs.failing fun _ =>
    ensures_replyValue _ _ <| (hs.setPf ctx fun _ => fbEmptied_ok _).answering _

theorem execPpNew_keeps_inv (ctx : Nat) (a b c : BitVec 96) (k0 : Keys) (kb0 : Key) (k1 : Keys) (kb1 : Key) :
    (execPpNew ctx a b c k0 kb0 k1 kb1 s).Ensures State.Inv := by
  refine ensures_withContext hs.failing fun _ _ => ensures_checkDomain hs.failing fun hd => ?_
  simp only [Bool.and_eq_true] at hd
  obtain ⟨⟨ha, hb⟩, hc⟩ := hd
  exact ensures_reply _ <| (hs.setPp ctx fun _ =>
    ⟨⟨storeElement_lt ha, storeElement_lt hb, storeElement_lt hc, zero_lt_p89⟩, fbNew_ok k0 kb0, fbNew_ok k1 kb1, rfl⟩).answering _

theorem execPpWrite_keeps_inv (ctx : Nat) (x : BitVec 64) : (execPpWrite ctx x s).Ensures State.Inv := by
  refine ensures_withContext hs.failing fun q hq => ensures_checkValid hs.failing fun hv => ?_
  have hv' : (ppBeforeWrite q).valid = true := by rw [ppBeforeWrite_valid, hv]
  split
  next q' hfeed => exact ensures_reply _ <| (hs.setPp ctx ((hs.pp_ok hq).beforeWrite.feed hv' hfeed)).answering _
  next => exact ensures_fault _

theorem execPpFinish_keeps_inv (ctx l : Nat) : (execPpFinish ctx l s).Ensures State.Inv :=
  ensures_checkWidth hs.failing <| ensures_withContext hs.failing fun _ hq => ensures_checkValid hs.failing fun _ =>
    ensures_replyValue _ _ <| (hs.setPp ctx ((hs.pp_ok hq).beforeFinish.withState zero_lt_p89)).answering _

theorem exec_keeps_inv (i : Instr) : Result.Ensures (exec i s) State.Inv := by
  cases i with
  | pfNew ctx k kb => exact execPfNew_keeps_inv hs ctx k kb
  | pfWrite ctx x => exact execPfWrite_keeps_inv hs ctx x
  | pfIsdone ctx => exact execPfIsdone_keeps_inv hs ctx
  | pfFinish ctx l => exact execPfFinish_keeps_inv hs ctx l
  | phNew ctx a b c => exact execPhNew_keeps_inv hs ctx a b c
  | phWrite ctx x => exact execPhWrite_keeps_inv hs ctx x
  | phFinish ctx l => exact execPhFinish_keeps_inv hs ctx l
  | ppNew ctx a b c k0 kb0 k1 kb1 => exact execPpNew_keeps_inv hs ctx a b c k0 kb0 k1 kb1
  | ppWrite ctx x => exact execPpWrite_keeps_inv hs ctx x
  | ppFinish ctx l => exact execPpFinish_keeps_inv hs ctx l
  | _ => exact ensures_exec_of_context_none hs.failing rfl hs.answering

end

/-- All that a step can do: hold the state, reset, or take a packet and either run its command or refuse it. -/
theorem step_cases (s : State) :
    (s.port = [] ∧ step s = .next s) ∨
    (∃ rest, s.port = .reset :: rest ∧ step s = .next { s with port := rest }.applyReset) ∨
    (∃ p rest, s.port = .command p :: rest ∧
      ((∃ i, decode p = .ok i ∧ step s = exec i { s with port := rest }) ∨
        (∃ e, decode p = .error e ∧ step s = raise e { s with port := rest }))) := by
  unfold step
  rw [takeEvent_eq]
  cases hport : s.port with
  | nil => exact .inl ⟨rfl, rfl⟩
  | cons event rest =>
    cases event with
    | reset => exact .inr (.inl ⟨rest, rfl, rfl⟩)
    | command p =>
      refine .inr (.inr ⟨p, rest, rfl, ?_⟩)
      cases hp : decode p with
      | ok i => exact .inl ⟨i, rfl, by simp only [hp]⟩
      | error e => exact .inr ⟨e, rfl, by simp only [hp]⟩

theorem step_keeps_inv {s : State} (hs : s.Inv) : Result.Ensures (step s) State.Inv := by
  obtain ⟨-, hstep⟩ | ⟨rest, -, hstep⟩ | ⟨p, rest, -, ⟨i, -, hstep⟩ | ⟨e, -, hstep⟩⟩ := step_cases s <;> rw [hstep]
  · exact ensures_next hs
  · exact ensures_next (hs.setPort rest).applyReset
  · exact exec_keeps_inv (hs.setPort rest) i
  · exact ensures_raise (hs.setPort rest).failing e

/-- Settles O55: each kind of input keeps the invariant, a command by its own update of the one context it names. -/
theorem stepKeepsInvariant : Obligations.StepKeepsInvariant := by
  intro s t hs hstep
  exact step_keeps_inv hs t hstep

end Sys2Proof.Machine
end

section
/-! The reset values (R47, R291): each file repeats one context, whose VALID is 0. -/

namespace Sys2Proof.Machine

section
variable {γ : Type} {valid : γ → Bool} {c : γ} (hc : valid c = false)
include hc

theorem valid_getElem?_replicate {m n : Nat} (h : n < m) : ((List.replicate m c)[n]?).map valid = some false := by
  rw [List.getElem?_replicate_of_lt h, Option.map_some, hc]

theorem valid_of_mem_replicate {m : Nat} (d : γ) (hd : d ∈ List.replicate m c) : valid d = false := by
  rw [List.eq_of_mem_replicate hd, hc]

end

/-- Settles O12: both for any sizes and at `State.reset`, from the one context that each file repeats. -/
theorem resetLeavesSpecValues : Obligations.ResetLeavesSpecValues := by
  refine ⟨⟨rfl, rfl, ?_, ?_, ?_⟩,
    fun nPH nPF nPP => ⟨List.length_replicate, List.length_replicate, List.length_replicate, rfl, rfl, ?_, ?_, ?_⟩⟩
  · exact valid_of_mem_replicate (valid := PhContext.valid) rfl
  · exact valid_of_mem_replicate (valid := PfContext.valid) rfl
  · exact valid_of_mem_replicate (valid := PpContext.valid) rfl
  · exact fun _ h => valid_getElem?_replicate rfl h
  · exact fun _ h => valid_getElem?_replicate rfl h
  · exact fun _ h => valid_getElem?_replicate rfl h

/-- The invariant asks of a context only what it asks of a valid one, and reset leaves none valid. -/
theorem resetWith_inv {nPH nPF nPP : Nat} (hph : 1 ≤ nPH ∧ nPH ≤ 16) (hpf : 1 ≤ nPF ∧ nPF ≤ 16) (hpp : 1 ≤ nPP ∧ nPP ≤ 16) :
    (State.resetWith nPH nPF nPP).Inv := by
  refine ⟨?_, clearedStatus_ok, fun c hc hv => ?_, fun c hc hv => ?_, fun c hc hv => ?_⟩
  · simpa [State.SizesOk, State.resetWith] using ⟨hph, hpf, hpp⟩
  · exact Bool.noConfusion (hv.symm.trans (valid_of_mem_replicate rfl c hc))
  · exact Bool.noConfusion (hv.symm.trans (valid_of_mem_replicate rfl c hc))
  · exact Bool.noConfusion (hv.symm.trans (valid_of_mem_replicate rfl c hc))

/-- Settles O56: the sizes are the legal ones given, and no context is valid. -/
theorem resetMeetsInvariant : Obligations.ResetMeetsInvariant :=
  ⟨fun _ _ _ h1 h2 h3 h4 h5 h6 => resetWith_inv ⟨h1, h2⟩ ⟨h3, h4⟩ ⟨h5, h6⟩,
    resetWith_inv (by decide) (by decide) (by decide)⟩

end Sys2Proof.Machine
end

section
/-! What a command does, said once for every property of its answer and its frame: a command's outcome is one of six effects, which
follows from what the command reads (its operands, the context it names, and for STATUS that register) and from nothing else. -/

namespace Sys2Proof.Machine

/-- All that a command can do to the block: stop, raise an exception, or respond, with at most one context written. -/
inductive Effect where
  | stop (r : Fault)
  | fail (e : DomainError)
  | answer (ws : List Word)
  | writePh (n : Nat) (d : PhContext) (ws : List Word)
  | writePf (n : Nat) (d : PfContext) (ws : List Word)
  | writePp (n : Nat) (d : PpContext) (ws : List Word)

/-- The effect on a state. -/
def Effect.apply : Effect → State → Result
  | .stop r, _ => .fault r
  | .fail e, s => .next (s.failing (errorCode e).toNat)
  | .answer ws, s => .next (s.answering ws)
  | .writePh n d ws, s => .next ((s.setPh n d).answering ws)
  | .writePf n d ws, s => .next ((s.setPf n d).answering ws)
  | .writePp n d ws, s => .next ((s.setPp n d).answering ws)

/-- The command `i` may replace a context by another (R33, R41): the new one is valid, and unless `i` is a NEW the old one was valid
and has the same coefficients. -/
def MayWrite {γ δ : Type} (valid : γ → Bool) (coefficients : γ → δ) (i : Instr) (c d : γ) : Prop :=
  valid d = true ∧ (i.isNew = false → valid c = true ∧ coefficients d = coefficients c)

/-- The effect is one the command `i` may have on `s`: it writes the context that `i` names, or none. -/
def Effect.AllowedFor (i : Instr) (s : State) : Effect → Prop
  | .stop _ | .fail _ | .answer _ => True
  | .writePh n d _ => i.context = some (.ph n) ∧ ∃ c, s.ph[n]? = some c ∧ MayWrite PhContext.valid PhContext.coefficients i c d
  | .writePf n d _ => i.context = some (.pf n) ∧ ∃ c, s.pf[n]? = some c ∧ MayWrite PfContext.valid PfContext.coefficients i c d
  | .writePp n d _ => i.context = some (.pp n) ∧ ∃ c, s.pp[n]? = some c ∧ MayWrite PpContext.valid PpContext.coefficients i c d

/-- Two states hold the same in all that the command `i` reads (R43, R46). -/
structure SameView (i : Instr) (s t : State) : Prop where
  status : i = .status → s.status = t.status
  context : ∀ n, i.context = some n → SameContext s t n

theorem SameContext.refl (s : State) (n : ContextName) : SameContext s s n := by
  cases n <;> rfl

theorem SameView.refl (i : Instr) (s : State) : SameView i s s := ⟨fun _ => rfl, fun n _ => SameContext.refl s n⟩

/-- The meaning `go` has one effect on all states that hold the same as `s` in what `i` reads, and `i` may have it. -/
def Acts (i : Instr) (s : State) (go : State → Result) : Prop :=
  ∃ e : Effect, e.AllowedFor i s ∧ ∀ t, SameView i s t → go t = e.apply t

section
variable {i : Instr} {s : State}

theorem acts_reply (ws : List Word) : Acts i s (reply ws) := ⟨.answer ws, trivial, fun _ _ => rfl⟩

theorem acts_replyValue (n v : Nat) : Acts i s (replyValue n v) := acts_reply _

theorem acts_raise (e : DomainError) : Acts i s (raise e) := ⟨.fail e, trivial, fun t _ => raise_eq e t⟩

theorem acts_fault (r : Fault) : Acts i s fun _ => .fault r := ⟨.stop r, trivial, fun _ _ => rfl⟩

theorem acts_checkWidth {m l : Nat} {go : State → Result} (h : Acts i s go) : Acts i s fun t => checkWidth m l t (go t) := by
  by_cases hl : l = 0 ∨ m < l
  · exact ⟨.fail .width, trivial, fun t _ => checkWidth_illegal hl t (go t)⟩
  · simpa only [checkWidth_legal (show 1 ≤ l ∧ l ≤ m by omega)] using h

theorem acts_checkDomain {b : Bool} {go : State → Result} (h : Acts i s go) : Acts i s fun t => checkDomain b t (go t) := by
  cases b with
  | false => exact acts_raise .domain
  | true => exact h

theorem acts_checkValid {b : Bool} {go : State → Result} (h : b = true → Acts i s go) :
    Acts i s fun t => checkValid b t (go t) := by
  cases b with
  | false => exact acts_raise .invalid
  | true => exact h rfl

/-- A context that the command names is there to all states of the same view, and the same, or to none. -/
theorem acts_withContext {γ : Type} {file : State → List γ} {ctx : Nat} {go : γ → State → Result}
    (hview : ∀ t, SameView i s t → (file s)[ctx]? = (file t)[ctx]?)
    (h : ∀ c, (file s)[ctx]? = some c → Acts i s (go c)) :
    Acts i s fun t => withContext (file t) ctx t fun c => go c t := by
  cases hc : (file s)[ctx]? with
  | none =>
    refine ⟨.fail .ctx, trivial, fun t ht => withContext_none ?_ t _⟩
    rw [← List.getElem?_eq_none_iff, ← hview t ht, hc]
  | some c =>
    obtain ⟨e, he, hgo⟩ := h c hc
    exact ⟨e, he, fun t ht => (withContext_some ((hview t ht).symm.trans hc) t _).trans (hgo t ht)⟩

section
variable {ctx : Nat} (hi : i.context = some (.ph ctx))
include hi

theorem acts_withPh {go : PhContext → State → Result} (h : ∀ c, s.ph[ctx]? = some c → Acts i s (go c)) :
    Acts i s fun t => withContext t.ph ctx t fun c => go c t :=
  acts_withContext (fun _ ht => ht.context _ hi) h

theorem acts_writePh {c d : PhContext} {ws : List Word} (hc : s.ph[ctx]? = some c)
    (hd : MayWrite PhContext.valid PhContext.coefficients i c d) : Acts i s fun t => reply ws (t.setPh ctx d) :=
  ⟨.writePh ctx d ws, ⟨hi, c, hc, hd⟩, fun _ _ => rfl⟩

end

section
variable {ctx : Nat} (hi : i.context = some (.pf ctx))
include hi

theorem acts_withPf {go : PfContext → State → Result} (h : ∀ c, s.pf[ctx]? = some c → Acts i s (go c)) :
    Acts i s fun t => withContext t.pf ctx t fun c => go c t :=
  acts_withContext (fun _ ht => ht.context _ hi) h

theorem acts_writePf {c d : PfContext} {ws : List Word} (hc : s.pf[ctx]? = some c)
    (hd : MayWrite PfContext.valid PfContext.coefficients i c d) : Acts i s fun t => reply ws (t.setPf ctx d) :=
  ⟨.writePf ctx d ws, ⟨hi, c, hc, hd⟩, fun _ _ => rfl⟩

end

section
variable {ctx : Nat} (hi : i.context = some (.pp ctx))
include hi

theorem acts_withPp {go : PpContext → State → Result} (h : ∀ c, s.pp[ctx]? = some c → Acts i s (go c)) :
    Acts i s fun t => withContext t.pp ctx t fun c => go c t :=
  acts_withContext (fun _ ht => ht.context _ hi) h

theorem acts_writePp {c d : PpContext} {ws : List Word} (hc : s.pp[ctx]? = some c)
    (hd : MayWrite PpContext.valid PpContext.coefficients i c d) : Acts i s fun t => reply ws (t.setPp ctx d) :=
  ⟨.writePp ctx d ws, ⟨hi, c, hc, hd⟩, fun _ _ => rfl⟩

end

end

theorem ppBeforeWrite_coefficients (q : PpContext) : (ppBeforeWrite q).coefficients = q.coefficients := by
  unfold ppBeforeWrite; split <;> rfl

theorem ppBeforeFinish_coefficients (q : PpContext) : (ppBeforeFinish q).coefficients = q.coefficients := by
  unfold ppBeforeFinish; split <;> rfl

theorem ppBeforeFinish_valid (q : PpContext) : (ppBeforeFinish q).valid = q.valid := by
  unfold ppBeforeFinish; split <;> rfl

/-- Feeding a pipeline writes sums and cursors only. -/
theorem ppFeed_frame {q q' : PpContext} {x : BitVec 64} (h : ppFeed q x = some q') :
    q'.valid = q.valid ∧ q'.coefficients = q.coefficients := by
  obtain ⟨f0, f1, h0, h1, rfl⟩ := ppFeed_eq_some h
  obtain ⟨-, hk0, hkb0, -⟩ := fbWrite_frame h0
  obtain ⟨-, hk1, hkb1, -⟩ := fbWrite_frame h1
  simp [PpContext.coefficients, hk0, hkb0, hk1, hkb1]

theorem execStatus_acts (s : State) : Acts .status s (exec .status) :=
  ⟨.answer [s.status.word], trivial, fun t ht => by rw [ht.status rfl]; rfl⟩

theorem execPfWrite_acts (ctx : Nat) (x : BitVec 64) (s : State) : Acts (.pfWrite ctx x) s (execPfWrite ctx x) := by
  refine acts_withPf rfl fun f hf => acts_checkValid fun hv => ?_
  cases hdone : fbDone f.buf with
  | true => exact acts_raise .full
  | false =>
    cases hw : fbWrite f.buf x with
    | none => exact acts_fault .keySlotOutOfRange
    | some buf =>
      obtain ⟨-, hk, hkb, -⟩ := fbWrite_frame hw
      exact acts_writePf rfl hf ⟨hv, fun _ => ⟨hv, by rw [PfContext.coefficients, hk, hkb]; rfl⟩⟩

theorem execPpWrite_acts (ctx : Nat) (x : BitVec 64) (s : State) : Acts (.ppWrite ctx x) s (execPpWrite ctx x) := by
  refine acts_withPp rfl fun q hq => acts_checkValid fun hv => ?_
  cases hfeed : ppFeed (ppBeforeWrite q) x with
  | none => exact acts_fault .keySlotOutOfRange
  | some q' =>
    obtain ⟨hvalid, hcoef⟩ := ppFeed_frame hfeed
    rw [ppBeforeWrite_valid] at hvalid
    rw [ppBeforeWrite_coefficients] at hcoef
    exact acts_writePp rfl hq ⟨hvalid.trans hv, fun _ => ⟨hv, hcoef⟩⟩

theorem execPpFinish_acts (ctx l : Nat) (s : State) : Acts (.ppFinish ctx l) s (execPpFinish ctx l) :=
  acts_checkWidth <| acts_withPp rfl fun q hq => acts_checkValid fun hv => acts_writePp rfl hq
    ⟨(ppBeforeFinish_valid q).trans hv, fun _ => ⟨hv, ppBeforeFinish_coefficients q⟩⟩

/-- Every command has, on all states of the same view, one effect, which it may have. -/
theorem exec_acts (i : Instr) (s : State) : Acts i s (exec i) := by
  cases i with
  | status => exact execStatus_acts s
  | mul3x1 | mul3x1a3 | mul3x2 | muladd | mul3x3 => exact acts_reply _
  | red6a3 => exact acts_checkDomain (acts_reply _)
  | mod5 | ms32 | ms64 | ms128 | mss32 | mss64 | mss128 | vdot | vdotp => exact acts_checkWidth (acts_replyValue _ _)
  | mmp31 | mmp61 | mmp89 | mmp31x3 => exact acts_checkWidth (acts_checkDomain (acts_replyValue _ _))
  | pfNew ctx k kb => exact acts_withPf rfl fun f hf => acts_writePf rfl hf ⟨rfl, Bool.noConfusion⟩
  | pfWrite ctx x => exact execPfWrite_acts ctx x s
  | pfIsdone ctx => exact acts_withPf rfl fun f _ => acts_checkValid fun _ => acts_replyValue _ _
  | pfFinish ctx l =>
    exact acts_checkWidth <| acts_withPf rfl fun f hf => acts_checkValid fun hv =>
      acts_writePf rfl hf ⟨hv, fun _ => ⟨hv, rfl⟩⟩
  | phNew ctx a b c => exact acts_withPh rfl fun h hh => acts_checkDomain (acts_writePh rfl hh ⟨rfl, Bool.noConfusion⟩)
  | phWrite ctx x =>
    exact acts_withPh rfl fun h hh => acts_checkValid fun hv => acts_writePh rfl hh ⟨hv, fun _ => ⟨hv, rfl⟩⟩
  | phFinish ctx l =>
    exact acts_checkWidth <| acts_withPh rfl fun h hh => acts_checkValid fun hv =>
      acts_writePh rfl hh ⟨hv, fun _ => ⟨hv, rfl⟩⟩
  | ppNew ctx a b c k0 kb0 k1 kb1 =>
    exact acts_withPp rfl fun q hq => acts_checkDomain (acts_writePp rfl hq ⟨rfl, Bool.noConfusion⟩)
  | ppWrite ctx x => exact execPpWrite_acts ctx x s
  | ppFinish ctx l => exact execPpFinish_acts ctx l s

/-- A command that answers on `s` has an effect there, and the same one on every state of the same view. -/
theorem exec_next_effect {i : Instr} {s s' : State} (h : exec i s = .next s') :
    ∃ e : Effect, e.AllowedFor i s ∧ e.apply s = .next s' ∧ ∀ t, SameView i s t → exec i t = e.apply t := by
  obtain ⟨e, he, hexec⟩ := exec_acts i s
  exact ⟨e, he, (hexec s (.refl i s)).symm.trans h, hexec⟩

end Sys2Proof.Machine
end

section
/-! What follows from a command's effect: which contexts it leaves, and what its answer depends on (R40, R43, R45, R46). -/

namespace Sys2Proof.Machine

theorem sameContext_setPh {n : ContextName} {m : Nat} (h : some (ContextName.ph m) ≠ some n) (s : State) (d : PhContext) :
    SameContext s (s.setPh m d) n := by
  cases n with
  | ph k => exact (List.getElem?_set_ne fun hk => h (by rw [hk])).symm
  | pf | pp => rfl

theorem sameContext_setPf {n : ContextName} {m : Nat} (h : some (ContextName.pf m) ≠ some n) (s : State) (d : PfContext) :
    SameContext s (s.setPf m d) n := by
  cases n with
  | pf k => exact (List.getElem?_set_ne fun hk => h (by rw [hk])).symm
  | ph | pp => rfl

theorem sameContext_setPp {n : ContextName} {m : Nat} (h : some (ContextName.pp m) ≠ some n) (s : State) (d : PpContext) :
    SameContext s (s.setPp m d) n := by
  cases n with
  | pp k => exact (List.getElem?_set_ne fun hk => h (by rw [hk])).symm
  | ph | pf => rfl

theorem sameContext_answering (s t : State) (ws : List Word) (n : ContextName) :
    SameContext s (t.answering ws) n ↔ SameContext s t n := by
  cases n <;> rfl

/-- Settles O51: an effect writes the context that the command names, or none. -/
theorem otherContextsUntouched : Obligations.OtherContextsUntouched := by
  intro i s t n h hn
  obtain ⟨e, he, hs, -⟩ := exec_next_effect h
  cases e with
  | stop r => cases hs
  | fail | answer => cases hs; exact SameContext.refl s n
  | writePh m d ws => obtain ⟨hi, -⟩ := he; cases hs; exact (sameContext_answering _ _ _ _).mpr (sameContext_setPh (hi ▸ hn) s d)
  | writePf m d ws => obtain ⟨hi, -⟩ := he; cases hs; exact (sameContext_answering _ _ _ _).mpr (sameContext_setPf (hi ▸ hn) s d)
  | writePp m d ws => obtain ⟨hi, -⟩ := he; cases hs; exact (sameContext_answering _ _ _ _).mpr (sameContext_setPp (hi ▸ hn) s d)

/-- STATUS is in the view of the command STATUS only. -/
theorem sameView_setStatus {i : Instr} (hi : i ≠ .status) (s : State) (st : Status) : SameView i s (s.setStatus st) :=
  ⟨fun h => absurd h hi, fun n _ => by cases n <;> rfl⟩

/-- An effect does not look at STATUS. -/
theorem Effect.apply_setStatus {e : Effect} {s t : State} (h : e.apply s = .next t) (st : Status) :
    ∃ t', e.apply (s.setStatus st) = .next t' ∧ t'.ph = t.ph ∧ t'.pf = t.pf ∧ t'.pp = t.pp ∧
      t'.responses = t.responses ∧ t'.port = t.port := by
  cases e with
  | stop r => cases h
  | fail | answer | writePh | writePf | writePp => cases h; exact ⟨_, rfl, rfl, rfl, rfl, rfl, rfl⟩

/-- Settles O21: the effect is the same whatever STATUS holds. -/
theorem statusNeverConsulted : Obligations.StatusNeverConsulted := by
  intro i s t st hi h
  obtain ⟨e, -, hs, hexec⟩ := exec_next_effect h
  rw [hexec _ (sameView_setStatus hi s st)]
  exact Effect.apply_setStatus hs st

/-- Writing the same value at one index keeps two files equal at every index where they were. -/
theorem getElem?_set_congr {γ : Type} {l l' : List γ} {n : Nat} (h : l[n]? = l'[n]?) (m : Nat) (d : γ) :
    (l.set m d)[n]? = (l'.set m d)[n]? := by
  by_cases hmn : m = n
  · subst hmn; rw [List.getElem?_set_self', List.getElem?_set_self', h]
  · rw [List.getElem?_set_ne hmn, List.getElem?_set_ne hmn, h]

/-- One effect on two states gives one response, and keeps equal every context that was. -/
theorem Effect.apply_congr {e : Effect} {s s' : State} (h : e.apply s = .next s') (t : State) :
    ∃ t' r, e.apply t = .next t' ∧ s'.responses = s.responses ++ [r] ∧ t'.responses = t.responses ++ [r] ∧
      ∀ n, SameContext s t n → SameContext s' t' n := by
  cases e with
  | stop r => cases h
  | fail | answer => cases h; exact ⟨_, _, rfl, rfl, rfl, fun n hn => by cases n <;> exact hn⟩
  | writePh m d ws =>
    cases h
    refine ⟨_, _, rfl, rfl, rfl, fun n hn => ?_⟩
    cases n with
    | ph k => exact getElem?_set_congr hn m d
    | pf | pp => exact hn
  | writePf m d ws =>
    cases h
    refine ⟨_, _, rfl, rfl, rfl, fun n hn => ?_⟩
    cases n with
    | pf k => exact getElem?_set_congr hn m d
    | ph | pp => exact hn
  | writePp m d ws =>
    cases h
    refine ⟨_, _, rfl, rfl, rfl, fun n hn => ?_⟩
    cases n with
    | pp k => exact getElem?_set_congr hn m d
    | ph | pf => exact hn

/-- Settles O52: the two states have the same view, so the command has one effect on both. The lengths of the files are in the view, as
far as the command asks for them. -/
theorem answerDependsOnNamedContext : Obligations.AnswerDependsOnNamedContext := by
  intro i s t s' hstatus _ _ _ hcontext h
  obtain ⟨e, -, hs, hexec⟩ := exec_next_effect h
  obtain ⟨t', r, ht, hrs, hrt, hsame⟩ := Effect.apply_congr hs t
  exact ⟨t', r, (hexec t ⟨hstatus, hcontext⟩).trans ht, hrs, hrt, fun n hn => hsame n (hcontext n hn)⟩

/-- A block with one configured polynomial hasher. -/
def withHasher : State := State.reset.setPh 0 ⟨true, 1, 0, 2, 11⟩

/-- The same, with files of the same lengths but another STATUS and another pair filter. -/
def withHasherAndFilter : State :=
  (withHasher.setPf 1 ⟨true, fbNew (Vector.replicate 64 3) 7⟩).setStatus (Status.failed .full)

/-- The hypotheses of O52 are met by two states that differ outside the view of the command. -/
theorem witness_answerDependsOnNamedContext :
    withHasher ≠ withHasherAndFilter ∧ ∃ s' t' r, exec (.phWrite 0 5) withHasher = .next s' ∧
      exec (.phWrite 0 5) withHasherAndFilter = .next t' ∧ s'.responses = withHasher.responses ++ [r] ∧
      t'.responses = withHasherAndFilter.responses ++ [r] := by
  refine ⟨fun h => Bool.noConfusion (congrArg (fun s => s.status.err) h), ?_⟩
  obtain ⟨t', r, ht, hrs, hrt, -⟩ := answerDependsOnNamedContext (.phWrite 0 5) withHasher withHasherAndFilter _
    (fun h => Instr.noConfusion h) rfl rfl rfl (fun n hn => by cases hn; rfl) rfl
  exact ⟨_, t', r, rfl, ht, hrs, hrt⟩

end Sys2Proof.Machine
end

section
/-! What a command can do to a context file (R33, R41). -/

namespace Sys2Proof.Machine

/-- What one command can do to a file: nothing, or the write of one context. -/
def FileStep {γ δ : Type} (valid : γ → Bool) (coefficients : γ → δ) (i : Instr) (file file' : List γ) : Prop :=
  file' = file ∨ ∃ n c d, file[n]? = some c ∧ MayWrite valid coefficients i c d ∧ file' = file.set n d

/-- All that a command can do to the three files. -/
theorem exec_fileSteps {i : Instr} {s t : State} (h : exec i s = .next t) :
    FileStep PhContext.valid PhContext.coefficients i s.ph t.ph ∧ FileStep PfContext.valid PfContext.coefficients i s.pf t.pf ∧
      FileStep PpContext.valid PpContext.coefficients i s.pp t.pp := by
  obtain ⟨e, he, hs, -⟩ := exec_next_effect h
  cases e with
  | stop r => cases hs
  | fail | answer => cases hs; exact ⟨.inl rfl, .inl rfl, .inl rfl⟩
  | writePh n d ws =>
    obtain ⟨-, c, hc, hd⟩ := he
    cases hs; exact ⟨.inr ⟨n, c, d, hc, hd, rfl⟩, .inl rfl, .inl rfl⟩
  | writePf n d ws =>
    obtain ⟨-, c, hc, hd⟩ := he
    cases hs; exact ⟨.inl rfl, .inr ⟨n, c, d, hc, hd, rfl⟩, .inl rfl⟩
  | writePp n d ws =>
    obtain ⟨-, c, hc, hd⟩ := he
    cases hs; exact ⟨.inl rfl, .inl rfl, .inr ⟨n, c, d, hc, hd, rfl⟩⟩

/-- A write that keeps a field keeps the file's list of that field. -/
theorem map_set_of_eq {γ δ : Type} {f : γ → δ} {l : List γ} {n : Nat} {c d : γ} (hc : l[n]? = some c) (hd : f d = f c) :
    (l.set n d).map f = l.map f := by
  obtain ⟨hn, rfl⟩ := List.getElem?_eq_some_iff.mp hc
  rw [List.map_set, hd, ← List.map_set, List.set_getElem_self]

section
variable {γ δ : Type} {valid : γ → Bool} {coefficients : γ → δ} {i : Instr} {file file' : List γ}
  (h : FileStep valid coefficients i file file')
include h

theorem FileStep.map_coefficients (hi : i.isNew = false) : file'.map coefficients = file.map coefficients := by
  obtain rfl | ⟨n, c, d, hc, ⟨-, hkeep⟩, rfl⟩ := h
  · rfl
  · exact map_set_of_eq hc (hkeep hi).2

theorem FileStep.map_valid (hi : i.isNew = false) : file'.map valid = file.map valid := by
  obtain rfl | ⟨n, c, d, hc, ⟨hvalid, hkeep⟩, rfl⟩ := h
  · rfl
  · exact map_set_of_eq hc (hvalid.trans (hkeep hi).1.symm)

/-- A context is written by a valid one only, so a valid one stays valid. -/
theorem FileStep.valid_of_valid (m : Nat) (c : γ) (hm : file[m]? = some c) (hv : valid c = true) :
    ∃ d, file'[m]? = some d ∧ valid d = true := by
  obtain rfl | ⟨n, -, d, -, ⟨hvalid, -⟩, rfl⟩ := h
  · exact ⟨c, hm, hv⟩
  · by_cases hnm : n = m
    · subst hnm
      exact ⟨d, by rw [List.getElem?_set_self', hm]; rfl, hvalid⟩
    · exact ⟨c, by rw [List.getElem?_set_ne hnm, hm], hv⟩

end

/-- Settles O53: a command but a NEW writes a context of the same coefficients. -/
theorem onlyNewWritesCoefficients : Obligations.OnlyNewWritesCoefficients := by
  intro i s t h hi
  obtain ⟨hph, hpf, hpp⟩ := exec_fileSteps h
  exact ⟨hph.map_coefficients hi, hpf.map_coefficients hi, hpp.map_coefficients hi⟩

/-- Settles O54: a command writes valid contexts only, and all but a NEW over valid ones only. -/
theorem validIsSetByNewOnly : Obligations.ValidIsSetByNewOnly := by
  intro i s t h
  obtain ⟨hph, hpf, hpp⟩ := exec_fileSteps h
  exact ⟨hph.valid_of_valid, hpf.valid_of_valid, hpp.valid_of_valid,
    fun hi => ⟨hph.map_valid hi, hpf.map_valid hi, hpp.map_valid hi⟩⟩

end Sys2Proof.Machine
end

section
/-! What each streaming command does on a context that is there, valid where it must be, with operands in range (R183 to R191, R211 to
R215, R231 to R236). -/

namespace Sys2Proof.Machine

/-- A polynomial hasher right after its NEW, of the same coefficients. -/
def PhContext.fresh (c : PhContext) : PhContext := { c with state := 0 }

/-- A pair filter right after its NEW, of the same keys. -/
def PfContext.fresh (c : PfContext) : PfContext := { c with buf := fbEmptied c.buf }

/-- A pipeline right after its NEW, of the same coefficients and keys. -/
def PpContext.fresh (q : PpContext) : PpContext := { q with state := 0, f0 := fbEmptied q.f0, f1 := fbEmptied q.f1 }

theorem isFieldElement_eq_true {v : BitVec 96} (h : v.toNat < Config.p89) : isFieldElement v = true := decide_eq_true h

/-- The domain check of PH.NEW and PP.NEW passes (R268). -/
theorem areFieldElements_eq_true {a b c : BitVec 96} (ha : a.toNat < Config.p89) (hb : b.toNat < Config.p89)
    (hc : c.toNat < Config.p89) : (isFieldElement a && isFieldElement b && isFieldElement c) = true := by
  rw [isFieldElement_eq_true ha, isFieldElement_eq_true hb, isFieldElement_eq_true hc]; rfl

section
variable {s : State} {ctx : Nat}

theorem execPhNew_of_inDomain (h : ctx < s.ph.length) {a b c : BitVec 96} (ha : a.toNat < Config.p89)
    (hb : b.toNat < Config.p89) (hc : c.toNat < Config.p89) :
    exec (.phNew ctx a b c) s =
      .next ((s.setPh ctx ⟨true, storeElement a, storeElement b, storeElement c, 0⟩).answering []) :=
  (withContext_some (List.getElem?_eq_getElem h) s _).trans (checkDomain_true (areFieldElements_eq_true ha hb hc) s _)

theorem execPhWrite_of_valid {c : PhContext} (hc : s.ph[ctx]? = some c) (hv : c.valid = true) (x : BitVec 64) :
    exec (.phWrite ctx x) s = .next ((s.setPh ctx { c with state := phWrite c.c c.state x }).answering []) :=
  (withContext_some hc s _).trans (checkValid_true hv s _)

theorem execPhFinish_of_valid {l : Nat} (hl : 1 ≤ l ∧ l ≤ 88) {c : PhContext} (hc : s.ph[ctx]? = some c)
    (hv : c.valid = true) :
    exec (.phFinish ctx l) s = .next ((s.setPh ctx c.fresh).answering (limbs 3 (phFinish c.a c.b c.state l))) :=
  (checkWidth_legal hl s _).trans ((withContext_some hc s _).trans (checkValid_true hv s _))

theorem execPfNew_of_lt (h : ctx < s.pf.length) (k : Keys) (kb : Key) :
    exec (.pfNew ctx k kb) s = .next ((s.setPf ctx ⟨true, fbNew k kb⟩).answering []) :=
  withContext_some (List.getElem?_eq_getElem h) s _

/-- All that PF.WRITE on a valid filter can answer: E_FULL, or the word accumulated (R186). -/
theorem execPfWrite_next {t : State} {f : PfContext} {x : BitVec 64} (hf : s.pf[ctx]? = some f) (hv : f.valid = true)
    (h : exec (.pfWrite ctx x) s = .next t) :
    (fbDone f.buf = true ∧ t = s.failing 7) ∨
      ∃ buf, fbWrite f.buf x = some buf ∧ t = (s.setPf ctx { f with buf := buf }).answering [] := by
  replace h := ((withContext_some hf s _).trans (checkValid_true hv s _)).symm.trans h
  split at h
  next hdone => cases h; exact .inl ⟨hdone, rfl⟩
  next =>
    split at h
    next buf hw => cases h; exact .inr ⟨buf, hw, rfl⟩
    next => cases h

theorem execPfFinish_of_valid {l : Nat} (hl : 1 ≤ l ∧ l ≤ 32) {f : PfContext} (hf : s.pf[ctx]? = some f)
    (hv : f.valid = true) :
    exec (.pfFinish ctx l) s = .next ((s.setPf ctx f.fresh).answering (limbs 1 (fbDigest f.buf l).toNat)) :=
  (checkWidth_legal hl s _).trans ((withContext_some hf s _).trans (checkValid_true hv s _))

theorem execPpNew_of_inDomain (h : ctx < s.pp.length) {a b c : BitVec 96} (ha : a.toNat < Config.p89)
    (hb : b.toNat < Config.p89) (hc : c.toNat < Config.p89) (k0 : Keys) (kb0 : Key) (k1 : Keys) (kb1 : Key) :
    exec (.ppNew ctx a b c k0 kb0 k1 kb1) s =
      .next ((s.setPp ctx ⟨true, storeElement a, storeElement b, storeElement c, 0, fbNew k0 kb0, fbNew k1 kb1⟩).answering
        []) :=
  (withContext_some (List.getElem?_eq_getElem h) s _).trans (checkDomain_true (areFieldElements_eq_true ha hb hc) s _)

/-- All that PP.WRITE on a valid pipeline can answer: the word fed to it, after the flush that may be due. -/
theorem execPpWrite_next {t : State} {q : PpContext} {x : BitVec 64} (hq : s.pp[ctx]? = some q) (hv : q.valid = true)
    (h : exec (.ppWrite ctx x) s = .next t) :
    ∃ q', ppFeed (ppBeforeWrite q) x = some q' ∧ t = (s.setPp ctx q').answering [] := by
  replace h := ((withContext_some hq s _).trans (checkValid_true hv s _)).symm.trans h
  split at h
  next q' hfeed => cases h; exact ⟨q', hfeed, rfl⟩
  next => cases h

theorem execPpFinish_of_valid {l : Nat} (hl : 1 ≤ l ∧ l ≤ 88) {q : PpContext} (hq : s.pp[ctx]? = some q)
    (hv : q.valid = true) :
    exec (.ppFinish ctx l) s = .next ((s.setPp ctx { ppBeforeFinish q with state := 0 }).answering
      (limbs 3 (phFinish q.a q.b (ppBeforeFinish q).state l))) :=
  (checkWidth_legal hl s _).trans ((withContext_some hq s _).trans (checkValid_true hv s _))

end

end Sys2Proof.Machine
end

section
/-! R42: a FINISH brings a context back to what its NEW made it. -/

namespace Sys2Proof.Machine

theorem execAll_cons (i : Instr) (is : List Instr) (s t : State) :
    execAll (i :: is) s = .next t ↔ ∃ u, exec i s = .next u ∧ execAll is u = .next t := by
  rw [execAll]
  cases exec i s <;> simp

section
variable {γ : Type} {file : State → List γ} {n : Nat} {ready : γ → Prop} {fresh : γ → γ} {write : BitVec 64 → Instr}
  {finish : Instr}
  (hwrite : ∀ (x : BitVec 64) (u v : State) (c : γ), (file u)[n]? = some c → ready c → exec (write x) u = .next v →
    ∃ d, file v = (file u).set n d ∧ ready d ∧ fresh d = fresh c)
  (hfinish : ∀ (u v : State) (c : γ), (file u)[n]? = some c → ready c → exec finish u = .next v →
    file v = (file u).set n (fresh c))
include hwrite hfinish

/-- When every write keeps what `fresh` keeps of context `n`, and the finish leaves `fresh` of it, so does a stream of writes with a
finish; every context but `n` is as it was. -/
theorem execAll_writes_finish {xs : List (BitVec 64)} {u t : State} {c : γ} (hc : (file u)[n]? = some c) (hready : ready c)
    (h : execAll (xs.map write ++ [finish]) u = .next t) : file t = (file u).set n (fresh c) := by
  induction xs generalizing u c with
  | nil =>
    obtain ⟨v, hv, ⟨⟩⟩ := (execAll_cons finish [] u t).mp h
    exact hfinish u _ c hc hready hv
  | cons x xs ih =>
    obtain ⟨v, hv, hrest⟩ := (execAll_cons (write x) _ u t).mp h
    obtain ⟨d, hfile, hd, hfresh⟩ := hwrite x u v c hc hready hv
    have hn : n < (file u).length := (List.getElem?_eq_some_iff.mp hc).1
    have hvd : (file v)[n]? = some d := by rw [hfile, List.getElem?_set_self hn]
    rw [ih hvd hd hrest, hfile, List.set_set, hfresh]

/-- The same from the file as a NEW leaves it, when the context it made is fresh. -/
theorem execAll_writes_finish_of_new {xs : List (BitVec 64)} {s u t : State} {c : γ} (hn : n < (file s).length)
    (hnew : file u = (file s).set n c) (hready : ready c) (hfresh : fresh c = c)
    (h : execAll (xs.map write ++ [finish]) u = .next t) : file t = file u := by
  have hc : (file u)[n]? = some c := by rw [hnew, List.getElem?_set_self hn]
  rw [execAll_writes_finish hwrite hfinish hc hready h, hfresh, hnew, List.set_set]

end

/-! What the procedures of a context keep of it, as a fresh context shows it. -/

theorem fbEmptied_of_fbWrite {f g : FilterBuffer} {x : BitVec 64} (h : fbWrite f x = some g) : fbEmptied g = fbEmptied f := by
  obtain ⟨-, hk, hkb, -⟩ := fbWrite_frame h
  rw [fbEmptied, fbEmptied, hk, hkb]

/-- An empty buffer is as a NEW makes it: its sum is 0 by the invariant (R37). -/
theorem fbEmptied_of_cur_eq_zero {f : FilterBuffer} (hf : f.Ok) (hcur : f.cur = 0) : fbEmptied f = f := by
  obtain ⟨-, hsum⟩ := hf
  rw [fbEmptied, ← hsum hcur, ← hcur]

theorem ppBeforeWrite_fresh (q : PpContext) : (ppBeforeWrite q).fresh = q.fresh := by
  unfold ppBeforeWrite; split <;> rfl

theorem fresh_of_ppFeed {q q' : PpContext} {x : BitVec 64} (h : ppFeed q x = some q') : q'.fresh = q.fresh := by
  obtain ⟨f0, f1, h0, h1, rfl⟩ := ppFeed_eq_some h
  rw [PpContext.fresh, PpContext.fresh, fbEmptied_of_fbWrite h0, fbEmptied_of_fbWrite h1]

/-- A pipeline that a FINISH leaves fresh: valid, and its invariant holds (R38). -/
structure PpContext.Ready (q : PpContext) : Prop where
  valid : q.valid = true
  ok : q.Ok

/-- A finish leaves both buffers empty: it flushes them, or both were empty, their cursors being equal (R38). -/
theorem ppBeforeFinish_eq_fresh {q : PpContext} (hq : q.Ready) : { ppBeforeFinish q with state := 0 } = q.fresh := by
  obtain ⟨hv, hok⟩ := hq
  obtain ⟨-, h0, h1, hcur⟩ := hok hv
  unfold ppBeforeFinish
  split
  next => rfl
  next hzero =>
    have hcur0 : q.f0.cur = 0 := not_not.mp hzero
    rw [PpContext.fresh, fbEmptied_of_cur_eq_zero h0 hcur0, fbEmptied_of_cur_eq_zero h1 (hcur.symm.trans hcur0)]

theorem PpContext.Ready.feed {q q' : PpContext} {x : BitVec 64} (hq : q.Ready) (h : ppFeed (ppBeforeWrite q) x = some q') :
    q'.Ready := by
  obtain ⟨hv, hok⟩ := hq
  have hv' : (ppBeforeWrite q).valid = true := (ppBeforeWrite_valid q).trans hv
  obtain ⟨hvalid, -⟩ := ppFeed_frame h
  exact ⟨hvalid.trans hv', hok.beforeWrite.feed hv' h⟩

/-! The three kinds. -/

theorem ph_restored {s u t : State} {i l : Nat} {a b c : BitVec 96} {xs : List (BitVec 64)} (hi : i < s.ph.length)
    (ha : a.toNat < Config.p89) (hb : b.toNat < Config.p89) (hc : c.toNat < Config.p89) (hl : 1 ≤ l ∧ l ≤ 88)
    (hnew : exec (.phNew i a b c) s = .next u) (h : execAll (xs.map (.phWrite i) ++ [.phFinish i l]) u = .next t) :
    t.ph = u.ph := by
  rw [execPhNew_of_inDomain hi ha hb hc] at hnew
  cases hnew
  refine execAll_writes_finish_of_new (file := State.ph) (ready := fun c => c.valid = true) (fresh := PhContext.fresh)
    (fun x u v d hd hv hw => ?_) (fun u v d hd hv hf => ?_) hi rfl rfl rfl h
  · rw [execPhWrite_of_valid hd hv] at hw
    cases hw; exact ⟨_, rfl, hv, rfl⟩
  · rw [execPhFinish_of_valid hl hd hv] at hf
    cases hf; rfl

theorem pf_restored {s u t : State} {j l : Nat} {k : Keys} {kb : Key} {xs : List (BitVec 64)} (hj : j < s.pf.length)
    (hl : 1 ≤ l ∧ l ≤ 32) (hnew : exec (.pfNew j k kb) s = .next u)
    (h : execAll (xs.map (.pfWrite j) ++ [.pfFinish j l]) u = .next t) : t.pf = u.pf := by
  rw [execPfNew_of_lt hj] at hnew
  cases hnew
  refine execAll_writes_finish_of_new (file := State.pf) (ready := fun f => f.valid = true) (fresh := PfContext.fresh)
    (fun x u v f hf hv hw => ?_) (fun u v f hf hv hfin => ?_) hj rfl rfl rfl h
  · obtain ⟨-, rfl⟩ | ⟨buf, hbuf, rfl⟩ := execPfWrite_next hf hv hw
    · obtain ⟨hlt, rfl⟩ := List.getElem?_eq_some_iff.mp hf
      exact ⟨_, (List.set_getElem_self hlt).symm, hv, rfl⟩
    · exact ⟨_, rfl, hv, by rw [PfContext.fresh, fbEmptied_of_fbWrite hbuf]; rfl⟩
  · rw [execPfFinish_of_valid hl hf hv] at hfin
    cases hfin; rfl

theorem pp_restored {s u t : State} {n l : Nat} {a b c : BitVec 96} {k0 : Keys} {kb0 : Key} {k1 : Keys} {kb1 : Key}
    {xs : List (BitVec 64)} (hn : n < s.pp.length) (ha : a.toNat < Config.p89) (hb : b.toNat < Config.p89)
    (hc : c.toNat < Config.p89) (hl : 1 ≤ l ∧ l ≤ 88) (hnew : exec (.ppNew n a b c k0 kb0 k1 kb1) s = .next u)
    (h : execAll (xs.map (.ppWrite n) ++ [.ppFinish n l]) u = .next t) : t.pp = u.pp := by
  have hstored {v : BitVec 96} (hv : v.toNat < Config.p89) := storeElement_lt (isFieldElement_eq_true hv)
  rw [execPpNew_of_inDomain hn ha hb hc] at hnew
  cases hnew
  refine execAll_writes_finish_of_new (file := State.pp) (ready := PpContext.Ready) (fresh := PpContext.fresh)
    (fun x u v q hq hready hw => ?_) (fun u v q hq hready hf => ?_) hn rfl ?_ rfl h
  · obtain ⟨q', hfeed, rfl⟩ := execPpWrite_next hq hready.valid hw
    exact ⟨q', rfl, hready.feed hfeed, (fresh_of_ppFeed hfeed).trans (ppBeforeWrite_fresh q)⟩
  · rw [execPpFinish_of_valid hl hq hready.valid, ppBeforeFinish_eq_fresh hready] at hf
    cases hf; rfl
  · exact ⟨rfl, fun _ => ⟨⟨hstored ha, hstored hb, hstored hc, zero_lt_p89⟩, fbNew_ok k0 kb0, fbNew_ok k1 kb1, rfl⟩⟩

/-- Settles O50: a write leaves of a context what a fresh one shows, and the finish leaves the fresh one. -/
theorem finishRestoresFreshContext : Obligations.FinishRestoresFreshContext := by
  refine ⟨?_, ?_, ?_⟩
  · intro s u t i l a b c xs hi ha hb hc h1 h2 hnew h
    exact ph_restored hi ha hb hc ⟨h1, h2⟩ hnew h
  · intro s u t j l k kb xs hj h1 h2 hnew h
    exact pf_restored hj ⟨h1, h2⟩ hnew h
  · intro s u t n l a b c k0 kb0 k1 kb1 xs hn ha hb hc h1 h2 hnew h
    exact pp_restored hn ha hb hc ⟨h1, h2⟩ hnew h

end Sys2Proof.Machine
end

section
/-! A valid state answers every command (R260, R61): the two commands that read the key store find their slot. -/

namespace Sys2Proof.Machine

/-- The result is a next state: no fault and no refusal. -/
def Result.Answers (r : Result) : Prop := ∃ t, r = .next t

section
variable {s : State}

theorem answers_raise (e : DomainError) : (raise e s).Answers := ⟨_, raise_eq e s⟩

theorem answers_reply (ws : List Word) : (reply ws s).Answers := ⟨_, reply_eq ws s⟩

theorem answers_replyValue (n v : Nat) : (replyValue n v s).Answers := ⟨_, replyValue_eq n v s⟩

theorem answers_checkWidth {m l : Nat} {go : Result} (h : go.Answers) : (checkWidth m l s go).Answers := by
  by_cases hl : l = 0 ∨ m < l
  · exact ⟨_, checkWidth_illegal hl s go⟩
  · rwa [checkWidth_legal (by omega)]

theorem answers_checkDomain {b : Bool} {go : Result} (h : go.Answers) : (checkDomain b s go).Answers := by
  cases b with
  | false => exact answers_raise .domain
  | true => exact h

theorem answers_checkValid {b : Bool} {go : Result} (h : b = true → go.Answers) : (checkValid b s go).Answers := by
  cases b with
  | false => exact answers_raise .invalid
  | true => exact h rfl

theorem answers_withContext {γ : Type} {file : List γ} {ctx : Nat} {go : γ → Result}
    (h : ∀ c, file[ctx]? = some c → (go c).Answers) : (withContext file ctx s go).Answers := by
  cases hc : file[ctx]? with
  | none => exact ⟨_, withContext_none (List.getElem?_eq_none_iff.mp hc) s go⟩
  | some c => rw [withContext_some hc]; exact h c hc

end

/-- Both filters of a valid pipeline have a slot for the word to be written: they go in lock-step, so they are full together, and then
flushed (R232, R235). -/
theorem ppBeforeWrite_cur_lt {q : PpContext} (hq : q.Ok) (hv : q.valid = true) :
    (ppBeforeWrite q).f0.cur < 32 ∧ (ppBeforeWrite q).f1.cur < 32 := by
  obtain ⟨-, ⟨hle, -⟩, -, hcur⟩ := hq hv
  unfold ppBeforeWrite
  split
  next => exact ⟨Nat.zero_lt_succ 31, Nat.zero_lt_succ 31⟩
  next hfull =>
    have hne : q.f0.cur ≠ 32 := by
      intro h0
      rw [(fbDone_iff q.f0).mpr h0, (fbDone_iff q.f1).mpr (hcur.symm.trans h0)] at hfull
      exact hfull rfl
    omega

section
variable {s : State} (hs : s.Inv)
include hs

/-- A valid filter that is not full has a slot for the word (R37). -/
theorem execPfWrite_answers (ctx : Nat) (x : BitVec 64) : (execPfWrite ctx x s).Answers := by
  refine answers_withContext fun f hf => answers_checkValid fun hv => ?_
  obtain ⟨hle, -⟩ := hs.pf_ok hf hv
  split
  next => exact answers_raise .full
  next hdone =>
    rw [fbDone_iff] at hdone
    rw [fbWrite_some (by omega)]
    exact answers_reply []

theorem execPpWrite_answers (ctx : Nat) (x : BitVec 64) : (execPpWrite ctx x s).Answers := by
  refine answers_withContext fun q hq => answers_checkValid fun hv => ?_
  obtain ⟨h0, h1⟩ := ppBeforeWrite_cur_lt (hs.pp_ok hq) hv
  obtain ⟨_, _, -, -, hfeed⟩ := ppFeed_some h0 h1 x
  rw [hfeed]
  exact answers_reply []

theorem exec_answers (i : Instr) : Result.Answers (exec i s) := by
  cases i with
  | status | mul3x1 | mul3x1a3 | mul3x2 | muladd | mul3x3 => exact answers_reply _
  | red6a3 => exact answers_checkDomain (answers_reply _)
  | mod5 | ms32 | ms64 | ms128 | mss32 | mss64 | mss128 | vdot | vdotp => exact answers_checkWidth (answers_replyValue _ _)
  | mmp31 | mmp61 | mmp89 | mmp31x3 => exact answers_checkWidth (answers_checkDomain (answers_replyValue _ _))
  | pfNew => exact answers_withContext fun _ _ => answers_reply _
  | pfWrite ctx x => exact execPfWrite_answers hs ctx x
  | pfIsdone => exact answers_withContext fun _ _ => answers_checkValid fun _ => answers_replyValue _ _
  | phWrite => exact answers_withContext fun _ _ => answers_checkValid fun _ => answers_reply _
  | phNew | ppNew => exact answers_withContext fun _ _ => answers_checkDomain (answers_reply _)
  | ppWrite ctx x => exact execPpWrite_answers hs ctx x
  | pfFinish | phFinish | ppFinish =>
    exact answers_checkWidth <| answers_withContext fun _ _ => answers_checkValid fun _ => answers_replyValue _ _

end

end Sys2Proof.Machine
end

section
/-! Pending packets are served one per step, in the order of the port, with one response each (R71, R80, R301). -/

namespace Sys2Proof.Machine

/-- A command gives one response and takes nothing from the port. -/
theorem exec_next_port_responses {i : Instr} {s t : State} (h : exec i s = .next t) :
    t.port = s.port ∧ ∃ r, t.responses = s.responses ++ [r] := by
  obtain ⟨e, -, hs, -⟩ := exec_next_effect h
  cases e with
  | stop r => cases hs
  | fail | answer | writePh | writePf | writePp => cases hs; exact ⟨rfl, _, rfl⟩

/-- A step on a valid state with a packet pending takes that packet and gives one response, whether its command runs or is refused. -/
theorem step_serves_packet {s : State} {p : Packet} {es : List PortEvent} (hs : s.Inv) (hport : s.port = .command p :: es) :
    ∃ t r, step s = .next t ∧ t.Inv ∧ t.port = es ∧ t.responses = s.responses ++ [r] := by
  obtain ⟨hnil, -⟩ | ⟨_, hreset, -⟩ | ⟨p', es', hcommand, hserve⟩ := step_cases s
  · cases hport.symm.trans hnil
  · cases hport.symm.trans hreset
  · cases hport.symm.trans hcommand
    obtain ⟨i, -, hstep⟩ | ⟨e, -, hstep⟩ := hserve
    · obtain ⟨t, ht⟩ := exec_answers (hs.setPort es) i
      obtain ⟨htport, r, hresponses⟩ := exec_next_port_responses ht
      exact ⟨t, r, hstep.trans ht, exec_keeps_inv (hs.setPort es) i t ht, htport, hresponses⟩
    · exact ⟨_, _, hstep.trans (raise_eq e _), (hs.setPort es).failing e, rfl, rfl⟩

theorem run_succ_of_step {s t : State} (h : step s = .next t) (k : Nat) :
    Host.Core.run Sys2Proof.core (k + 1) s = Host.Core.run Sys2Proof.core k t := by
  have hcore : Sys2Proof.core.step s = .next t := h
  simp only [Host.Core.run, hcore]

/-- By induction on the number of steps, from every valid state: each step serves the packet at the head of the port, and leaves a
valid state for the rest. -/
theorem run_serves_packets (k : Nat) {s : State} {ps : List Packet} (hs : s.Inv) (hport : s.port = ps.map .command)
    (hk : k ≤ ps.length) :
    ∃ t rs, Host.Core.run Sys2Proof.core k s = .next t ∧ t.port = (ps.drop k).map .command ∧
      t.responses = s.responses ++ rs ∧ rs.length = k := by
  induction k generalizing s ps with
  | zero => exact ⟨s, [], rfl, hport, (List.append_nil _).symm, rfl⟩
  | succ k ih =>
    cases ps with
    | nil => cases hk
    | cons p ps =>
      obtain ⟨u, r, hstep, hu, huport, huresponses⟩ := step_serves_packet hs hport
      obtain ⟨t, rs, hrun, htport, htresponses, hlen⟩ := ih hu huport (Nat.le_of_succ_le_succ hk)
      refine ⟨t, r :: rs, (run_succ_of_step hstep k).trans hrun, htport, ?_, congrArg (· + 1) hlen⟩
      rw [htresponses, huresponses, List.append_assoc, List.singleton_append]

/-- Settles O58: the responses of the run stand after those given before, one for each step. -/
theorem runAnswersEveryPacket : Obligations.RunAnswersEveryPacket := by
  intro s ps k hs hport hk
  obtain ⟨t, rs, hrun, htport, hresponses, hlen⟩ := run_serves_packets k hs hport hk
  exact ⟨t, hrun, htport, by rw [hresponses, List.length_append, hlen], by rw [hresponses, List.take_left]⟩

end Sys2Proof.Machine
end

section
/-! The four fields of a header (30_encoding.md R81), and a header word put together from them (R87). -/

namespace Sys2Proof

/-- The OPC field of a header, bits 7:0 (R81). -/
def opcField (h : Word) : Nat := h.toNat % 256

/-- The RSV field of a header, bits 31:20 (R81). -/
def rsvField (h : Word) : Nat := h.toNat / 1048576

theorem lField_eq (h : Word) : lField h = h.toNat / 256 % 256 := by
  simp [lField, Nat.shiftRight_eq_div_pow]

theorem ctxField_eq (h : Word) : ctxField h = h.toNat / 65536 % 16 := by
  simp [ctxField, Nat.shiftRight_eq_div_pow]

theorem opcField_lt (h : Word) : opcField h < 256 := Nat.mod_lt _ (by decide)

theorem lField_lt (h : Word) : lField h < 256 := BitVec.isLt _

theorem ctxField_lt (h : Word) : ctxField h < 16 := BitVec.isLt _

/-- A header's number from its fields. -/
theorem toNat_eq_fields (h : Word) :
    h.toNat = opcField h + 256 * lField h + 65536 * ctxField h + 1048576 * rsvField h := by
  have := h.isLt
  rw [lField_eq, ctxField_eq, opcField, rsvField]
  omega

/-- A header word's number, each field reduced to its width. -/
theorem headerWord_toNat (opc l ctx : Nat) :
    (headerWord opc l ctx).toNat = opc % 256 + 256 * (l % 256) + 65536 * (ctx % 16) := by
  simp [headerWord, toNat_headerFields]

theorem rsvField_headerWord (opc l ctx : Nat) : rsvField (headerWord opc l ctx) = 0 := by
  rw [rsvField, headerWord_toNat]; omega

theorem opcField_headerWord {opc : Nat} (h : opc < 256) (l ctx : Nat) : opcField (headerWord opc l ctx) = opc := by
  rw [opcField, headerWord_toNat]; omega

theorem lField_headerWord {l : Nat} (h : l < 256) (opc ctx : Nat) : lField (headerWord opc l ctx) = l := by
  rw [lField_eq, headerWord_toNat]; omega

theorem ctxField_headerWord {ctx : Nat} (h : ctx < 16) (opc l : Nat) : ctxField (headerWord opc l ctx) = ctx := by
  rw [ctxField_eq, headerWord_toNat]; omega

/-- A header whose RSV is zero is the header word of its other fields. -/
theorem headerWord_fields {h : Word} (hrsv : rsvField h = 0) : headerWord (opcField h) (lField h) (ctxField h) = h := by
  have hl := lField_lt h
  have hctx := ctxField_lt h
  have hopc := opcField_lt h
  apply BitVec.eq_of_toNat_eq
  rw [headerWord_toNat, toNat_eq_fields h]
  omega

end Sys2Proof
end

section
/-! The command table by the header fields (R86): a row asks for its opcode and a zero RSV, and for a zero L and a zero CTX where its
format does not carry them. The opcodes are distinct, so a header selects at most one row (R88). -/

namespace Sys2Proof

/-- The opcode of a row, which its pattern holds in bits 7:0. -/
def Row.opcode (r : Row) : Nat := r.pattern.toNat

/-- The row's format carries L (HL and HLC): its mask does not look at bits 15:8. -/
def Row.usesL (r : Row) : Bool := r.mask &&& 0x0000FF00#32 == 0#32

/-- The row's format carries CTX (HC and HLC): its mask does not look at bits 19:16. -/
def Row.usesCtx (r : Row) : Bool := r.mask &&& 0x000F0000#32 == 0#32

/-- The header of the row's command with the given L and CTX, each zero where the format does not carry it (R87). -/
def Row.header (r : Row) (l ctx : Nat) : Word :=
  headerWord r.opcode (if r.usesL then l else 0) (if r.usesCtx then ctx else 0)

/-- The mask of a row keeps OPC and RSV, and each of L and CTX exactly where the format does not carry it. -/
theorem commandTable_masks : ∀ r ∈ commandTable, r.mask = BitVec.allOnes 12 ++
    (if r.usesCtx then 0#4 else BitVec.allOnes 4) ++ (if r.usesL then 0#8 else BitVec.allOnes 8) ++ BitVec.allOnes 8 := by
  decide

theorem commandTable_opcode_lt : ∀ r ∈ commandTable, r.opcode < 256 := by decide

theorem commandTable_opcodes_nodup : (commandTable.map Row.opcode).Nodup := by decide

/-- A row selects exactly the headers with its opcode, RSV zero, and zero in each field its format does not carry. -/
theorem selects_iff_fields {r : Row} (hr : r ∈ commandTable) (h : Word) :
    r.selects h = true ↔ rsvField h = 0 ∧ opcField h = r.opcode ∧ (r.usesL = false → lField h = 0) ∧
      (r.usesCtx = false → ctxField h = 0) := by
  have hlt := commandTable_opcode_lt r hr
  have hl := lField_lt h
  have hctx := ctxField_lt h
  have hopc := opcField_lt h
  have hmask := beq_fieldMask h r.pattern (commandTable_masks r hr) (by split <;> simp) (by split <;> simp)
  rw [← lField_eq, ← ctxField_eq, ← opcField, ← rsvField, ← Row.opcode] at hmask
  rw [Row.selects, hmask, decide_eq_true_eq]
  -- in each of the four formats, an equation of numbers below 2^32 is one of their fields
  cases r.usesL <;> cases r.usesCtx <;> simp <;> omega

/-- No header selects two rows: it holds one opcode. -/
theorem selects_unique {r r' : Row} (hr : r ∈ commandTable) (hr' : r' ∈ commandTable) {h : Word} (hs : r.selects h = true)
    (hs' : r'.selects h = true) : r = r' := by
  obtain ⟨-, hopc, -, -⟩ := (selects_iff_fields hr h).1 hs
  obtain ⟨-, hopc', -, -⟩ := (selects_iff_fields hr' h).1 hs'
  exact List.inj_on_of_nodup_map commandTable_opcodes_nodup hr hr' (hopc.symm.trans hopc')

/-- The row a header selects is the one row of the table that matches it. -/
theorem findRow_eq_some_iff (h : Word) (r : Row) : findRow h = some r ↔ r ∈ commandTable ∧ r.selects h = true := by
  constructor
  · intro hf
    exact ⟨List.mem_of_find?_eq_some hf, List.find?_some (p := fun r : Row => r.selects h) hf⟩
  · rintro ⟨hr, hs⟩
    cases hf : findRow h with
    | none => exact absurd hs (List.find?_eq_none.1 hf r hr)
    | some r' => rw [selects_unique hr (List.mem_of_find?_eq_some hf) hs (List.find?_some (p := fun r : Row => r.selects h) hf)]

theorem findRow_eq_none_iff (h : Word) : findRow h = none ↔ ¬ ∃ r ∈ commandTable, r.selects h = true := by
  simp [findRow]

/-- All that decoding to a command means (R88). -/
theorem decode_eq_ok_iff (p : Packet) (i : Instr) :
    decode p = .ok i ↔ ∃ r ∈ commandTable, r.selects p.header = true ∧ p.payload.length = r.payloadWords ∧
      r.assemble (lField p.header) (ctxField p.header) p.payload = i := by
  constructor
  · intro h
    unfold decode at h
    split at h
    · cases h
    · rename_i r hf
      obtain ⟨hr, hs⟩ := (findRow_eq_some_iff _ r).1 hf
      split at h
      · rename_i hlen
        exact ⟨r, hr, hs, hlen, by injection h⟩
      · cases h
  · rintro ⟨r, hr, hs, hlen, rfl⟩
    simp only [decode, (findRow_eq_some_iff _ r).2 ⟨hr, hs⟩, if_pos hlen]

/-- E_ILLEGAL is the answer to the headers that match no row, and to no other (R88, R262). -/
theorem decode_eq_illegal_iff (p : Packet) :
    decode p = .error .illegal ↔ ¬ ∃ r ∈ commandTable, r.selects p.header = true := by
  rw [← findRow_eq_none_iff, decode]
  cases findRow p.header with
  | none => simp
  | some r => by_cases hlen : p.payload.length = r.payloadWords <;> simp [hlen]

/-- A header a row selects is the row's header with its own L and CTX. -/
theorem header_fields_of_selects {r : Row} (hr : r ∈ commandTable) {h : Word} (hs : r.selects h = true) :
    r.header (lField h) (ctxField h) = h := by
  obtain ⟨hrsv, hopc, hl, hctx⟩ := (selects_iff_fields hr h).1 hs
  have el : (if r.usesL then lField h else 0) = lField h := by
    cases hu : r.usesL with
    | true => rfl
    | false => exact (hl hu).symm
  have ec : (if r.usesCtx then ctxField h else 0) = ctxField h := by
    cases hu : r.usesCtx with
    | true => rfl
    | false => exact (hctx hu).symm
  rw [Row.header, el, ec, ← hopc, headerWord_fields hrsv]

section
variable {r : Row} {l ctx : Nat}

theorem lField_header (hl : l < 256) : lField (r.header l ctx) = if r.usesL then l else 0 :=
  lField_headerWord (by split <;> omega) _ _

theorem ctxField_header (hctx : ctx < 16) : ctxField (r.header l ctx) = if r.usesCtx then ctx else 0 :=
  ctxField_headerWord (by split <;> omega) _ _

theorem selects_header (hr : r ∈ commandTable) (hl : l < 256) (hctx : ctx < 16) : r.selects (r.header l ctx) = true := by
  refine (selects_iff_fields hr _).2 ⟨rsvField_headerWord _ _ _, opcField_headerWord (commandTable_opcode_lt r hr) _ _, ?_, ?_⟩
  · intro hu; simp [lField_header hl, hu]
  · intro hu; simp [ctxField_header hctx, hu]

end

/-- Settles O7: two rows that select one header have its opcode, and the opcodes are distinct. -/
theorem tableRowsAreDisjoint : Obligations.TableRowsAreDisjoint :=
  ⟨rfl, fun _ _ hr _ hr' hs hs' => congrArg Row.mnemonic (selects_unique hr hr' hs hs')⟩

end Sys2Proof
end

section
/-! Cutting the payload into operands and writing the operands out again (R85): each undoes the other, operand by operand along the
payload. -/

namespace Sys2Proof

/-- An operand past the first words of a payload is cut from the rest. -/
theorem operandAt_append_right {w start : Nat} {xs : List Word} (h : xs.length ≤ start) (ys : List Word) :
    operandAt w (xs ++ ys) start = operandAt w ys (start - xs.length) := by
  rw [operandAt, operandAt, List.drop_append, List.drop_eq_nil_of_le h, List.nil_append]

theorem operandAt_operandWords_append {w : Nat} (h : 32 * (w / 32) = w) (v : BitVec w) (ys : List Word) :
    operandAt w (operandWords v ++ ys) 0 = v :=
  operandAt_operandWords h v [] ys rfl

theorem operandAt_operandWords_self {w : Nat} (h : 32 * (w / 32) = w) (v : BitVec w) :
    operandAt w (operandWords v) 0 = v := by
  simpa using operandAt_operandWords_append h v []

theorem keysAt_append_right {start : Nat} {xs : List Word} (h : xs.length ≤ start) (ys : List Word) :
    keysAt (xs ++ ys) start = keysAt ys (start - xs.length) := by
  apply Vector.ext
  intro i hi
  rw [keysAt, keysAt, Vector.getElem_ofFn, Vector.getElem_ofFn, operandAt_append_right (by omega), Nat.sub_add_comm h]

theorem keysAt_keysWords_append (k : Keys) (ys : List Word) : keysAt (keysWords k ++ ys) 0 = k :=
  keysAt_keysWords k [] ys rfl

theorem lanesAt_append_right {start : Nat} {xs : List Word} (h : xs.length ≤ start) (ys : List Word) :
    lanesAt (xs ++ ys) start = lanesAt ys (start - xs.length) := by
  apply Vector.ext
  intro i hi
  rw [lanesAt, lanesAt, Vector.getElem_ofFn, Vector.getElem_ofFn, operandAt_append_right (by omega), Nat.sub_add_comm h]

theorem lanesAt_lanesWords_self (x : Lanes) : lanesAt (lanesWords x) 0 = x := by
  simpa using lanesAt_lanesWords x [] [] rfl

section
variable {ws : List Word} {start : Nat}

/-- The words before an operand with the operand's words after them are the words up to the operand's end. -/
theorem take_append_operandWords {w : Nat} (h : 32 * (w / 32) = w) (hs : start + w / 32 ≤ ws.length) :
    ws.take start ++ operandWords (operandAt w ws start) = ws.take (start + w / 32) := by
  rw [operandWords_operandAt h hs, ← List.take_add]

theorem operandWords_operandAt_zero {w : Nat} (h : 32 * (w / 32) = w) (hs : w / 32 ≤ ws.length) :
    operandWords (operandAt w ws 0) = ws.take (w / 32) := by
  simpa using take_append_operandWords (start := 0) h (by omega)

/-- The words before an array of `n` elements with the elements' words after them, `k` words an element. -/
theorem take_append_flatMap_operandWords {w k : Nat} (hk : w / 32 = k) (h : 32 * (w / 32) = w) (n : Nat)
    (hs : start + k * n ≤ ws.length) :
    ws.take start ++ (List.ofFn fun i : Fin n => operandAt w ws (start + k * i.val)).flatMap operandWords =
      ws.take (start + k * n) := by
  induction n with
  | zero => simp
  | succ n ih =>
    rw [Nat.mul_succ, ← Nat.add_assoc] at hs
    rw [List.ofFn_succ_last, List.flatMap_append, ← List.append_assoc]
    simp only [Fin.val_castSucc, Fin.val_last, List.flatMap_singleton]
    rw [ih (by omega), take_append_operandWords h (by omega), hk, Nat.mul_succ, Nat.add_assoc]

theorem take_append_keysWords (hs : start + 128 ≤ ws.length) :
    ws.take start ++ keysWords (keysAt ws start) = ws.take (start + 128) := by
  rw [keysWords, keysAt, Vector.toList_ofFn]
  exact take_append_flatMap_operandWords (w := 64) rfl rfl 64 hs

theorem keysWords_keysAt_zero (hs : 128 ≤ ws.length) : keysWords (keysAt ws 0) = ws.take 128 := by
  simpa using take_append_keysWords (start := 0) (by omega)

theorem take_append_lanesWords (hs : start + 64 ≤ ws.length) :
    ws.take start ++ lanesWords (lanesAt ws start) = ws.take (start + 64) := by
  have h := take_append_flatMap_operandWords (w := 32) (k := 1) rfl rfl 64 hs
  simpa only [lanesWords, lanesAt, Vector.toList_ofFn, Nat.one_mul] using h

end

end Sys2Proof
end

section
/-! The round trip between packets and commands (R81, R85, R86, R88): a row's `assemble` and `encode` undo each other. -/

namespace Sys2Proof

/-- The L a command's packet carries; 0 for a command that uses none (R87). -/
def Instr.lOperand (i : Instr) : Nat := i.widthOperand.getD 0

/-- The index in a context's name, which is what CTX holds (R82). -/
def ContextName.index : ContextName → Nat
  | .ph i => i
  | .pf j => j
  | .pp k => k

/-- The CTX a command's packet carries; 0 for a command that uses none (R87). -/
def Instr.ctxOperand (i : Instr) : Nat := (i.context.map ContextName.index).getD 0

/-- A command is well formed when its L and its CTX fit their header fields. -/
theorem wellFormed_iff (i : Instr) : i.WellFormed ↔ i.lOperand < 256 ∧ i.ctxOperand < 16 := by
  cases i <;>
    simp [Instr.WellFormed, Instr.wellFormed, Instr.lOperand, Instr.widthOperand, Instr.ctxOperand, Instr.context,
      ContextName.index, widthFits, ctxFits, and_comm]

open Laws.PayloadLength in
theorem payload_encode_length (i : Instr) : (encode i).payload.length = i.payloadWords := by
  cases i
  exacts [status, mul3x1 _ _, mul3x1a3 _ _ _, mul3x2 _ _, muladd _ _ _, mul3x3 _ _, red6a3 _ _, mod5 _ _,
    mmp31 _ _ _ _, mmp61 _ _ _ _, mmp89 _ _ _ _, mmp31x3 _ _ _ _ _ _ _ _, ms32 _ _ _, ms64 _ _ _, ms128 _ _ _,
    mss32 _ _ _ _, mss64 _ _ _ _, mss128 _ _ _ _, vdot _ _ _ _, vdotp _ _ _ _, pfNew _ _ _, pfWrite _ _, pfIsdone _,
    pfFinish _ _, phNew _ _ _ _, phWrite _ _, phFinish _ _, ppNew _ _ _ _ _ _ _ _, ppWrite _ _, ppFinish _ _]

/-- The command a row assembles, written out again, is the row's header and the payload its operands were cut from: row by row, the
operands' words put together from the left are ever longer beginnings of the payload, the last one all of it. -/
theorem encode_assemble {r : Row} (hr : r ∈ commandTable) (l ctx : Nat) {ws : List Word} (hws : ws.length = r.payloadWords) :
    encode (r.assemble l ctx ws) = ⟨r.header l ctx, ws⟩ := by
  revert r
  simp only [commandTable, limbRows, hashRows, streamRows, List.forall_mem_append, List.forall_mem_cons, List.not_mem_nil,
    false_implies, implies_true, and_true]
  and_intros <;> intro hlen <;>
    simp [encode, Row.header, Row.opcode, Row.usesL, Row.usesCtx, maskH, maskHL, maskHC, maskHLC, hlen,
      operandWords_operandAt_zero, take_append_operandWords, keysWords_keysAt_zero, take_append_keysWords,
      take_append_lanesWords, List.take_of_length_le, -List.append_assoc]
  all_goals exact List.length_eq_zero_iff.1 hlen

/-- A row assembles no L or CTX but the given ones. -/
theorem assemble_wellFormed {r : Row} (hr : r ∈ commandTable) {l ctx : Nat} (hl : l < 256) (hctx : ctx < 16) (ws : List Word) :
    (r.assemble l ctx ws).WellFormed := by
  revert r
  simp [commandTable, limbRows, hashRows, streamRows, Instr.WellFormed, Instr.wellFormed, widthFits, ctxFits, hl, hctx]

/-- A row that does not carry L or CTX does not look at it. -/
theorem assemble_carried {r : Row} (hr : r ∈ commandTable) (l ctx : Nat) (ws : List Word) :
    r.assemble (if r.usesL then l else 0) (if r.usesCtx then ctx else 0) ws = r.assemble l ctx ws := by
  revert r
  simp [commandTable, limbRows, hashRows, streamRows, Row.usesL, Row.usesCtx, maskH, maskHL, maskHC, maskHLC]

/-- Every command is assembled from its own payload by a row of its length. The rows stand in the order of the constructors, so a
command's row is the one at its constructor's index. -/
theorem exists_row_assemble (i : Instr) : ∃ r ∈ commandTable, i.payloadWords = r.payloadWords ∧
    r.assemble i.lOperand i.ctxOperand (encode i).payload = i := by
  have hrow : ∃ r, commandTable[i.ctorIdx]? = some r ∧ i.payloadWords = r.payloadWords ∧
      r.assemble i.lOperand i.ctxOperand (encode i).payload = i := by
    cases i <;> refine ⟨_, rfl, rfl, ?_⟩ <;>
      simp [encode, Instr.lOperand, Instr.widthOperand, Instr.ctxOperand, Instr.context, ContextName.index,
        operandAt_operandWords_self, operandAt_operandWords_append, operandAt_append_right, keysAt_keysWords_append,
        keysAt_append_right, lanesAt_append_right, lanesAt_lanesWords_self, keysWords_length]
  obtain ⟨r, hr, h⟩ := hrow
  exact ⟨r, List.mem_of_getElem? hr, h⟩

/-- Settles O5: the packet of a command is its row's header and payload, which selects that row and no other. -/
theorem decodeOfEncode : Obligations.DecodeOfEncode := by
  intro i hi
  obtain ⟨hl, hctx⟩ := (wellFormed_iff i).1 hi
  obtain ⟨r, hr, hwords, hassemble⟩ := exists_row_assemble i
  have hlen : (encode i).payload.length = r.payloadWords := (payload_encode_length i).trans hwords
  have hheader : (encode i).header = r.header i.lOperand i.ctxOperand := by
    have henc := encode_assemble hr i.lOperand i.ctxOperand hlen
    rw [hassemble] at henc
    exact congrArg Packet.header henc
  refine (decode_eq_ok_iff _ i).2 ⟨r, hr, ?_, hlen, ?_⟩
  · rw [hheader]
    exact selects_header hr hl hctx
  · rw [hheader, lField_header hl, ctxField_header hctx, assemble_carried hr, hassemble]

/-- Settles O6: a packet that decodes is its row's header with the packet's own L and CTX, and the payload. -/
theorem encodeOfDecode : Obligations.EncodeOfDecode := by
  intro p i h
  obtain ⟨r, hr, hselects, hlen, rfl⟩ := (decode_eq_ok_iff p i).1 h
  exact ⟨assemble_wellFormed hr (lField_lt _) (ctxField_lt _) _,
    by rw [encode_assemble hr _ _ hlen, header_fields_of_selects hr hselects]⟩

end Sys2Proof
end

section
/-! The headers that are refused (R92, R262), and the step at a packet that decodes and at one that does not (R31, R88). -/

namespace Sys2Proof

/-- The opcodes of the rows of one format. -/
def opcodesOf (usesL usesCtx : Bool) : List Nat :=
  (commandTable.filter fun r => r.usesL == usesL && r.usesCtx == usesCtx).map Row.opcode

theorem mem_opcodesOf {usesL usesCtx : Bool} {opc : Nat} : opc ∈ opcodesOf usesL usesCtx ↔
    ∃ r ∈ commandTable, (r.usesL = usesL ∧ r.usesCtx = usesCtx) ∧ r.opcode = opc := by
  simp [opcodesOf, and_assoc]

theorem opcodesOf_H : opcodesOf false false = [0x00, 0x10, 0x11, 0x12, 0x13, 0x14, 0x15] := by decide

theorem opcodesOf_HL : opcodesOf true false =
    [0x16, 0x20, 0x21, 0x22, 0x23, 0x30, 0x31, 0x32, 0x34, 0x35, 0x36, 0x40, 0x41] := by decide

theorem opcodesOf_HC : opcodesOf false true = [0x44, 0x45, 0x46, 0x50, 0x51, 0x60, 0x61] := by decide

theorem opcodesOf_HLC : opcodesOf true true = [0x47, 0x52, 0x62] := by decide

/-- A header matches a row exactly when its RSV is zero and its OPC is an opcode of a format that allows its L and its CTX. -/
theorem exists_row_selects_iff (h : Word) : (∃ r ∈ commandTable, r.selects h = true) ↔ rsvField h = 0 ∧
    ((opcField h ∈ opcodesOf false false ∧ lField h = 0 ∧ ctxField h = 0) ∨
      (opcField h ∈ opcodesOf true false ∧ ctxField h = 0) ∨
      (opcField h ∈ opcodesOf false true ∧ lField h = 0) ∨
      opcField h ∈ opcodesOf true true) := by
  simp only [mem_opcodesOf]
  constructor
  · rintro ⟨r, hr, hs⟩
    obtain ⟨hrsv, hopc, hl, hctx⟩ := (selects_iff_fields hr h).1 hs
    refine ⟨hrsv, ?_⟩
    cases hL : r.usesL <;> cases hC : r.usesCtx
    · exact .inl ⟨⟨r, hr, ⟨hL, hC⟩, hopc.symm⟩, hl hL, hctx hC⟩
    · exact .inr (.inr (.inl ⟨⟨r, hr, ⟨hL, hC⟩, hopc.symm⟩, hl hL⟩))
    · exact .inr (.inl ⟨⟨r, hr, ⟨hL, hC⟩, hopc.symm⟩, hctx hC⟩)
    · exact .inr (.inr (.inr ⟨r, hr, ⟨hL, hC⟩, hopc.symm⟩))
  · rintro ⟨hrsv, ⟨⟨r, hr, ⟨hL, hC⟩, hopc⟩, hl, hctx⟩ | ⟨⟨r, hr, ⟨hL, hC⟩, hopc⟩, hctx⟩ |
      ⟨⟨r, hr, ⟨hL, hC⟩, hopc⟩, hl⟩ | ⟨r, hr, ⟨hL, hC⟩, hopc⟩⟩ <;>
    refine ⟨r, hr, (selects_iff_fields hr h).2 ⟨hrsv, hopc.symm, ?_⟩⟩
    · exact ⟨fun _ => hl, fun _ => hctx⟩
    · exact ⟨by simp [hL], fun _ => hctx⟩
    · exact ⟨fun _ => hl, by simp [hC]⟩
    · exact ⟨by simp [hL], by simp [hC]⟩

namespace Machine

section
variable {s : State} {p : Packet} {rest : List PortEvent} (hport : s.port = .command p :: rest)
include hport

theorem step_of_decode_ok {i : Instr} (hp : decode p = .ok i) : step s = exec i { s with port := rest } := by
  simp only [step, takeEvent, hport, hp]

theorem step_of_decode_error {e : DomainError} (hp : decode p = .error e) :
    step s = .next (State.failing { s with port := rest } (errorCode e).toNat) := by
  simp only [step, takeEvent, hport, hp, raise_eq]

end

/-- Settles O1. -/
theorem stepRunsDecodedCommand : Obligations.StepRunsDecodedCommand :=
  fun _ _ _ _ hport hp => step_of_decode_ok hport hp

/-- Settles O8: the legal headers are those that match a row, the opcodes of each format read off the table. -/
theorem illegalHeaderRaisesIllegal : Obligations.IllegalHeaderRaisesIllegal := by
  intro s p rest hport opc l ctx rsv legal
  have hlegal : (∃ r ∈ commandTable, r.selects p.header = true) ↔ legal := by
    rw [exists_row_selects_iff, opcodesOf_H, opcodesOf_HL, opcodesOf_HC, opcodesOf_HLC, lField_eq, ctxField_eq]
    rfl
  have hdecode : decode p = .error .illegal ↔ ¬ legal := (decode_eq_illegal_iff p).trans (not_congr hlegal)
  refine ⟨fun h => ⟨hdecode.2 h, step_of_decode_error hport (hdecode.2 h)⟩, fun h he => hdecode.1 he h, ?_⟩
  simpa only [Row.selects, beq_iff_eq] using hlegal.symm

end Machine

end Sys2Proof
end

section
/-! Packets and lines of assembly written out (R81, R96 to R99, R101). -/

namespace Sys2Proof.Machine

/-- Settles O2: each word list is computed through the decoder. -/
theorem writtenWordsDecode : Obligations.WrittenWordsDecode := ⟨rfl, rfl, rfl, rfl, rfl, rfl, rfl⟩

theorem assemble_workedExample : assemble "MMP31 30, 1234, 5678, 9012" = some (.mmp31 30 1234#32 5678#32 9012#32) := rfl

theorem exec_workedExample (s : State) :
    exec (.mmp31 30 1234#32 5678#32 9012#32) s = .next (s.answering [0x00A9C6D6#32]) := by
  show execMmp31 _ _ _ _ s = _
  rw [execMmp31, checkWidth_legal (by decide), checkDomain_true (by decide), replyValue_eq]
  rfl

/-- Settles O3: the fields of the header are computed from its number. -/
theorem workedEncodingOfMmp31 : Obligations.WorkedEncodingOfMmp31 :=
  ⟨assemble_workedExample, rfl, rfl, rfl, rfl, rfl, exec_workedExample⟩

/-- A pseudo-instruction stands for the core form it expands to, which is no pseudo-instruction itself. -/
theorem assembleOps_expand {name core : String} {ops coreOps : List Literal}
    (h : expandPseudo name ops = some (core, coreOps)) (hcore : expandPseudo core coreOps = none) :
    assembleOps name ops = assembleOps core coreOps := by
  simp only [assembleOps, h, hcore, Option.getD_some, Option.getD_none]

/-- The mnemonics that a prime or a width must follow stand for no command of their own. -/
theorem assembleOps_eq_none {name : String} {ops : List Literal}
    (hname : name ∈ ["mmp", "multiply_shift", "multiply_shift_strong"]) (h : expandPseudo name ops = none) :
    assembleOps name ops = none := by
  rw [assembleOps, h]
  simp only [List.mem_cons, List.not_mem_nil, or_false] at hname
  obtain rfl | rfl | rfl := hname <;> rfl

section
variable {n : Nat} (ops : List Literal)

theorem expandPseudo_mmp_none (hn : n ∉ [31, 61, 89]) : expandPseudo "mmp" (.scalar n :: ops) = none := by
  simp only [List.mem_cons, List.not_mem_nil, or_false, not_or] at hn
  simp [expandPseudo, hn]

theorem expandPseudo_multiply_shift_none (hn : n ∉ [32, 64, 128]) :
    expandPseudo "multiply_shift" (.scalar n :: ops) = none := by
  simp only [List.mem_cons, List.not_mem_nil, or_false, not_or] at hn
  simp [expandPseudo, hn]

theorem expandPseudo_multiply_shift_strong_none (hn : n ∉ [32, 64, 128]) :
    expandPseudo "multiply_shift_strong" (.scalar n :: ops) = none := by
  simp only [List.mem_cons, List.not_mem_nil, or_false, not_or] at hn
  simp [expandPseudo, hn]

end

/-- A FINISH written without a width takes the default one (R99). -/
theorem assembleOps_finish_default (c : Literal) {name : String} (hname : name ∈ ["pf.finish", "ph.finish", "pp.finish"]) :
    assembleOps name [c] = assembleOps name [c, .scalar 20] := by
  simp only [List.mem_cons, List.not_mem_nil, or_false] at hname
  obtain rfl | rfl | rfl := hname <;> rfl

/-- Settles O4: each pseudo-instruction by what it expands to, each prime or width that does not exist by its having no expansion. -/
theorem pseudoInstructionsExpand : Obligations.PseudoInstructionsExpand := by
  exact ⟨
    fun l a b x => ⟨assembleOps_expand rfl rfl, assembleOps_expand rfl rfl, assembleOps_expand rfl rfl,
      fun n hn => assembleOps_eq_none (by simp) (expandPseudo_mmp_none _ hn)⟩,
    fun l a x => ⟨assembleOps_expand rfl rfl, assembleOps_expand rfl rfl, assembleOps_expand rfl rfl,
      fun n hn => assembleOps_eq_none (by simp) (expandPseudo_multiply_shift_none _ hn)⟩,
    fun l a b x => ⟨assembleOps_expand rfl rfl, assembleOps_expand rfl rfl, assembleOps_expand rfl rfl,
      fun n hn => assembleOps_eq_none (by simp) (expandPseudo_multiply_shift_strong_none _ hn)⟩,
    fun a b x => ⟨assembleOps_expand rfl rfl, assembleOps_expand rfl rfl, assembleOps_expand rfl rfl, assembleOps_expand rfl rfl,
      assembleOps_expand rfl rfl, assembleOps_finish_default x (by simp), assembleOps_finish_default x (by simp),
      assembleOps_finish_default x (by simp)⟩⟩

end Sys2Proof.Machine
end

section
/-! Every result of a command that uses L is below `2^L` (R90, R147, R167). -/

namespace Sys2Proof.Machine

/-- Every success the state shows after `s`, by one more response, has a result below `2^l`. -/
def State.AnswersBelow (l : Nat) (s t : State) : Prop :=
  ∀ ws, t.responses = s.responses ++ [⟨0, ws⟩] → val ws < 2 ^ l

section
variable {l : Nat} {s : State}

/-- A failure's response is no success: its status word is a code of R261, none of which is 0. -/
theorem answersBelow_failing (e : DomainError) : State.AnswersBelow l s (s.failing (errorCode e).toNat) := by
  intro ws h
  rw [State.failing_responses, List.append_cancel_left_eq, List.singleton_inj] at h
  have hstatus := congrArg Response.status h
  cases e <;> cases hstatus

/-- A success with a value below `2^l` in any number of limbs, from a state that has the responses of `s`. -/
theorem answersBelow_replyValue {n v : Nat} {u : State} (hv : v < 2 ^ l) (hu : u.responses = s.responses) :
    (replyValue n v u).Ensures (State.AnswersBelow l s) := by
  refine ensures_replyValue n v fun ws h => ?_
  rw [State.answering_responses, hu, List.append_cancel_left_eq, List.singleton_inj] at h
  cases h
  rw [val_limbs]
  exact (Nat.mod_le _ _).trans_lt hv

/-- The top `l` bits of a `w`-bit value, and all of it where `l` is above `w`. -/
theorem ushiftRight_sub_lt {w : Nat} (v : BitVec w) (l : Nat) : (v >>> (w - l)).toNat < 2 ^ l := by
  rw [BitVec.toNat_ushiftRight, Nat.shiftRight_eq_div_pow, Nat.div_lt_iff_lt_mul (Nat.two_pow_pos _), ← Nat.pow_add]
  exact v.isLt.trans_le (Nat.pow_le_pow_right (by decide) (by omega))

theorem mod_two_pow_lt (v l : Nat) : v % 2 ^ l < 2 ^ l := Nat.mod_lt _ (Nat.two_pow_pos l)

theorem hash31_lt (l a b x : Nat) : hash31 l a b x < 2 ^ l := mod_two_pow_lt _ _

/-- The commands that use L, by what their results are; the checks before a result fail or leave it as it is. -/
theorem exec_answersBelow {i : Instr} (hi : i.widthOperand = some l) :
    Result.Ensures (exec i s) (State.AnswersBelow l s) := by
  have hf : ∀ e : DomainError, State.AnswersBelow l s (s.failing (errorCode e).toNat) := answersBelow_failing
  cases i with cases hi
  | mod5 => exact ensures_checkWidth hf <| answersBelow_replyValue (mod_two_pow_lt _ _) rfl
  | mmp31 | mmp61 | mmp89 =>
    exact ensures_checkWidth hf <| ensures_checkDomain hf fun _ => answersBelow_replyValue (mod_two_pow_lt _ _) rfl
  | mmp31x3 =>
    exact ensures_checkWidth hf <| ensures_checkDomain hf fun _ => answersBelow_replyValue
      (Nat.xor_lt_two_pow (Nat.xor_lt_two_pow (hash31_lt _ _ _ _) (hash31_lt _ _ _ _)) (hash31_lt _ _ _ _)) rfl
  | ms32 | ms64 | ms128 | mss32 | mss64 | mss128 | vdot | vdotp =>
    exact ensures_checkWidth hf <| answersBelow_replyValue (ushiftRight_sub_lt _ _) rfl
  | pfFinish =>
    exact ensures_checkWidth hf <| ensures_withContext hf fun _ _ => ensures_checkValid hf fun _ =>
      answersBelow_replyValue (ushiftRight_sub_lt _ _) rfl
  | phFinish | ppFinish =>
    exact ensures_checkWidth hf <| ensures_withContext hf fun _ _ => ensures_checkValid hf fun _ =>
      answersBelow_replyValue (mod_two_pow_lt _ _) rfl

end

/-- Settles O36: each result is a residue modulo `2^L`, an exclusive or of such, or the top L bits of a word. -/
theorem digestsBelowTwoToL : Obligations.DigestsBelowTwoToL :=
  fun _ _ _ t ws hi h hresponses => exec_answersBelow hi t h ws hresponses

end Sys2Proof.Machine
end

section
/-! The value of each limb routine of multiplication, for limb vectors of every length (40_limb_arithmetic.md R111, R114). -/

namespace Sys2Proof.Machine

/-- A step's partial sum fits 64 bits (R111): it is at most `(2^32 − 1)² + 2·(2^32 − 1)`. -/
theorem partialSum_lt (a x d carry : Word) : a.toNat * x.toNat + d.toNat + carry.toNat < 2 ^ 64 := by
  have hax : a.toNat * x.toNat ≤ (2 ^ 32 - 1) * (2 ^ 32 - 1) :=
    Nat.mul_le_mul (Nat.le_sub_one_of_lt a.isLt) (Nat.le_sub_one_of_lt x.isLt)
  have hd := d.isLt
  have hcarry := carry.isLt
  omega

/-- So the carry out of a step is one limb. -/
theorem toNat_partialCarry (a x d carry : Word) :
    (BitVec.ofNat 32 ((a.toNat * x.toNat + d.toNat + carry.toNat) / 2 ^ 32)).toNat =
      (a.toNat * x.toNat + d.toNat + carry.toNat) / 2 ^ 32 := by
  have ht := partialSum_lt a x d carry
  rw [BitVec.toNat_ofNat]
  omega

/-- Limb by limb: the low half of the partial sum is a result limb, the high half the carry into the rest. -/
theorem mulRow_length_val {as ds : List Word} (h : as.length = ds.length) (x carry : Word) :
    (mulRow as x ds carry).length = as.length + 1 ∧
      val (mulRow as x ds carry) = val as * x.toNat + val ds + carry.toNat := by
  induction as generalizing ds carry with
  | nil =>
    obtain rfl := List.length_eq_zero_iff.mp h.symm
    simp [mulRow]
  | cons a as ih =>
    obtain ⟨d, ds, rfl⟩ := List.exists_cons_of_length_eq_add_one h.symm
    obtain ⟨hlen, hval⟩ := ih (Nat.succ_inj.mp h)
      (BitVec.ofNat 32 ((a.toNat * x.toNat + d.toNat + carry.toNat) / 2 ^ 32))
    rw [toNat_partialCarry] at hval
    refine ⟨by rw [mulRow, List.length_cons, hlen, List.length_cons], ?_⟩
    have hsplit := Nat.mod_add_div (a.toNat * x.toNat + d.toNat + carry.toNat) (2 ^ 32)
    rw [mulRow, val_cons, val_cons, val_cons, hval, BitVec.toNat_ofNat]
    linear_combination hsplit

section
variable {a d : List Word} (h : a.length = d.length)
include h

theorem length_mul3x1Add3 (x : Word) : (mul3x1Add3 a x d).length = a.length + 1 := (mulRow_length_val h x 0).1

theorem val_mul3x1Add3 (x : Word) : val (mul3x1Add3 a x d) = val a * x.toNat + val d := (mulRow_length_val h x 0).2

/-- Row by row: a row's lowest limb is a result limb, and the rows above it are added to its upper limbs. -/
theorem mul3xnAdd3_length_val (x : List Word) :
    (mul3xnAdd3 a x d).length = x.length + a.length ∧ val (mul3xnAdd3 a x d) = val a * val x + val d := by
  induction x generalizing d with
  | nil => simp [mul3xnAdd3, h]
  | cons x xs ih =>
    have hrowval := val_mul3x1Add3 h x
    obtain ⟨w, ws, hrow⟩ := List.exists_cons_of_length_eq_add_one (length_mul3x1Add3 h x)
    have hws : a.length = ws.length := Nat.succ_inj.mp ((length_mul3x1Add3 h x).symm.trans (congrArg List.length hrow))
    obtain ⟨hlen, hval⟩ := ih hws
    have hstep : mul3xnAdd3 a (x :: xs) d = w :: mul3xnAdd3 a xs ws := by simp [mul3xnAdd3, hrow]
    rw [hrow, val_cons] at hrowval
    rw [hstep, List.length_cons, hlen, List.length_cons, val_cons, val_cons, hval]
    exact ⟨by omega, by linear_combination hrowval⟩

theorem length_mul3xnAdd3 (x : List Word) : (mul3xnAdd3 a x d).length = x.length + a.length := (mul3xnAdd3_length_val h x).1

theorem val_mul3xnAdd3 (x : List Word) : val (mul3xnAdd3 a x d) = val a * val x + val d := (mul3xnAdd3_length_val h x).2

end

/-- Settles O22: the bound on a row's value is that of its four limbs. -/
theorem limbRoutinesAreExact : Obligations.LimbRoutinesAreExact := by
  refine ⟨partialSum_lt, fun a d x ha hd => ?_, fun a x d ha hd => ?_⟩
  · have h : a.length = d.length := ha.trans hd.symm
    have hlen : (mul3x1Add3 a x d).length = 4 := by rw [length_mul3x1Add3 h, ha]
    have hlt := val_lt (mul3x1Add3 a x d)
    rw [hlen, val_mul3x1Add3 h] at hlt
    exact ⟨hlen, val_mul3x1Add3 h x, hlt⟩
  · have h : a.length = d.length := ha.trans hd.symm
    exact ⟨by rw [length_mul3xnAdd3 h, ha], val_mul3xnAdd3 h x⟩

/-! The commands, whose operands are whole limbs. -/

section
variable (a b : BitVec 96)

theorem mul3x1Add3_operandWords (x : BitVec 32) :
    mul3x1Add3 (operandWords a) x (operandWords b) = limbs 4 (a.toNat * x.toNat + b.toNat) := by
  have h : (operandWords a).length = (operandWords b).length := by simp
  apply eq_limbs
  · rw [length_mul3x1Add3 h, operandWords_length]
  · rw [val_mul3x1Add3 h, val_operandWords rfl, val_operandWords rfl]

theorem mul3xnAdd3_operandWords {w : Nat} (hw : 32 * (w / 32) = w) (x : BitVec w) :
    mul3xnAdd3 (operandWords a) (operandWords x) (operandWords b) =
      limbs (w / 32 + 3) (a.toNat * x.toNat + b.toNat) := by
  have h : (operandWords a).length = (operandWords b).length := by simp
  apply eq_limbs
  · rw [length_mul3xnAdd3 h, operandWords_length, operandWords_length]
  · rw [val_mul3xnAdd3 h, val_operandWords rfl, val_operandWords hw, val_operandWords rfl]

end

/-- The addend of the commands that have none is that of the operand 0. -/
theorem zero3_eq_operandWords : zero3 = operandWords (0 : BitVec 96) := rfl

/-- Settles O23: each command answers the limbs that its routine's length and value determine. -/
theorem singleLimbMultipliesAnswer : Obligations.SingleLimbMultipliesAnswer := by
  intro a d x s
  constructor
  · change execMul3x1 a x s = _
    rw [execMul3x1, zero3_eq_operandWords, mul3x1Add3_operandWords, reply_eq]
    rfl
  · change execMul3x1a3 a x d s = _
    rw [execMul3x1a3, mul3x1Add3_operandWords, reply_eq]

/-- Settles O24: as O23, with a multiplier of two limbs or three. -/
theorem multiLimbMultipliesAnswer : Obligations.MultiLimbMultipliesAnswer := by
  intro a b y x s
  refine ⟨?_, ?_, ?_⟩
  · change execMul3x2 a x s = _
    rw [execMul3x2, zero3_eq_operandWords, mul3xnAdd3_operandWords a 0 rfl, reply_eq]
    rfl
  · change execMuladd a b x s = _
    rw [execMuladd, mul3xnAdd3_operandWords a b rfl, reply_eq]
  · change execMul3x3 a y s = _
    rw [execMul3x3, zero3_eq_operandWords, mul3xnAdd3_operandWords a 0 rfl, reply_eq]
    rfl

end Sys2Proof.Machine
end

section
/-! The value of each limb routine of the reduction (40_limb_arithmetic.md R118, R119): the limb-wise subtraction and addition, and the
split at bit 89. -/

namespace Sys2Proof.Machine

/-- Limb by limb, with the last borrow worth `2^(32·n)`: the difference is exact over the integers. -/
theorem subLimbs_length_borrow_val {vs ps : List Word} (h : vs.length = ps.length) {b : Int} (hb : b = 0 ∨ b = 1) :
    (subLimbs vs ps b).1.length = vs.length ∧ ((subLimbs vs ps b).2 = 0 ∨ (subLimbs vs ps b).2 = 1) ∧
      (val (subLimbs vs ps b).1 : Int) = val vs - val ps - b + 2 ^ (32 * vs.length) * (subLimbs vs ps b).2 := by
  induction vs generalizing ps b with
  | nil =>
    obtain rfl := List.length_eq_zero_iff.mp h.symm
    simp [subLimbs, hb]
  | cons v vs ih =>
    obtain ⟨p, ps, rfl⟩ := List.exists_cons_of_length_eq_add_one h.symm
    have hv := v.isLt
    have hp := p.isLt
    have hlimb : ((BitVec.ofInt 32 (v.toNat - p.toNat - b)).toNat : Int) =
        v.toNat - p.toNat - b + 2 ^ 32 * if (v.toNat : Int) - p.toNat - b < 0 then 1 else 0 := by
      rw [BitVec.toNat_ofInt]
      split <;> omega
    obtain ⟨hlen, hborrow, hval⟩ := ih (Nat.succ_inj.mp h)
      (b := if (v.toNat : Int) - p.toNat - b < 0 then 1 else 0) (by split <;> simp)
    refine ⟨by simp only [subLimbs, List.length_cons, hlen], hborrow, ?_⟩
    simp only [subLimbs, val_cons, List.length_cons]
    push_cast
    rw [hval, hlimb, Nat.mul_add, pow_add]
    ring

theorem val_p89Limbs : val p89Limbs = Config.p89 := by decide

theorem p89_eq : Config.p89 = 2 ^ 89 - 1 := rfl

theorem condSubP_eq (v : List Word) :
    condSubP v = if (subLimbs v p89Limbs 0).2 = 1 then v else (subLimbs v p89Limbs 0).1 := rfl

/-- The last borrow of `cond_sub_p` is set exactly below `P89`. -/
theorem condSubP_length_val {v : List Word} (h : v.length = 3) :
    (condSubP v).length = 3 ∧ val (condSubP v) = if Config.p89 ≤ val v then val v - Config.p89 else val v := by
  obtain ⟨hlen, hborrow, hval⟩ := subLimbs_length_borrow_val (vs := v) (ps := p89Limbs) h (.inl rfl)
  have hdiff := val_lt (subLimbs v p89Limbs 0).1
  have hv := val_lt v
  rw [hlen, h] at hdiff
  rw [h] at hlen hval hv
  rw [val_p89Limbs] at hval
  rw [p89_eq] at hval ⊢
  rw [condSubP_eq]
  rcases hborrow with hborrow | hborrow <;> rw [hborrow] at hval ⊢
  · rw [if_neg (by decide), if_pos (by omega)]
    exact ⟨hlen, by omega⟩
  · rw [if_pos rfl, if_neg (by omega)]
    exact ⟨h, rfl⟩

/-- Settles O25: the difference over the integers decides the borrow. -/
theorem conditionalSubtraction : Obligations.ConditionalSubtraction := fun _ h => condSubP_length_val h

/-- What two conditional subtractions of `P89` make of a sum (R119). -/
def subtractTwice (S : Nat) : Nat :=
  if S < Config.p89 then S else if S < 2 * Config.p89 then S - Config.p89 else S - 2 * Config.p89

theorem condSubP_condSubP {v : List Word} (h : v.length = 3) :
    (condSubP (condSubP v)).length = 3 ∧ val (condSubP (condSubP v)) = subtractTwice (val v) := by
  obtain ⟨hlen, hval⟩ := condSubP_length_val h
  obtain ⟨hlen', hval'⟩ := condSubP_length_val hlen
  refine ⟨hlen', ?_⟩
  rw [hval', hval, subtractTwice]
  split_ifs <;> omega

/-- The three-term addition gives the sum in as many limbs; the carry out of the last limb is dropped. -/
theorem addLimbs_eq_limbs {cs ds es : List Word} (hd : ds.length = cs.length) (he : es.length = cs.length) (carry : Nat) :
    addLimbs cs ds es carry = limbs cs.length (val cs + val ds + val es + carry) := by
  induction cs generalizing ds es carry with
  | nil =>
    obtain rfl := List.length_eq_zero_iff.mp hd
    obtain rfl := List.length_eq_zero_iff.mp he
    rfl
  | cons c cs ih =>
    obtain ⟨d, ds, rfl⟩ := List.exists_cons_of_length_eq_add_one hd
    obtain ⟨e, es, rfl⟩ := List.exists_cons_of_length_eq_add_one he
    rw [addLimbs, ih (Nat.succ_inj.mp hd) (Nat.succ_inj.mp he), List.length_cons, limbs, val_cons, val_cons, val_cons]
    congr 1
    · apply BitVec.eq_of_toNat_eq
      rw [BitVec.toNat_ofNat, BitVec.toNat_ofNat]
      omega
    · congr 1
      omega

/-- The low 25 bits of a limb. -/
theorem toNat_and_mask25 (w : Word) : (w &&& 0x01FFFFFF#32).toNat = w.toNat % 2 ^ 25 := by
  rw [BitVec.toNat_and]
  exact Nat.and_two_pow_sub_one_eq_mod w.toNat 25

/-- A limb of the high part: the top 7 bits of one limb, and above them the low 25 bits of the next. -/
theorem toNat_shiftRight_or_shiftLeft (w u : Word) :
    ((w >>> 25) ||| (u <<< 7)).toNat = w.toNat / 2 ^ 25 + 2 ^ 7 * (u.toNat % 2 ^ 25) := by
  have hw := w.isLt
  have hlow : w.toNat / 2 ^ 25 < 2 ^ 7 := by omega
  have hhigh : u.toNat <<< 7 % 2 ^ 32 = (u.toNat % 2 ^ 25) <<< 7 := by
    rw [Nat.shiftLeft_eq, Nat.shiftLeft_eq]; omega
  rw [BitVec.toNat_or, BitVec.toNat_ushiftRight, BitVec.toNat_shiftLeft, hhigh, Nat.shiftRight_eq_div_pow, Nat.or_comm,
    ← Nat.shiftLeft_add_eq_or_of_lt hlow, Nat.shiftLeft_eq]
  omega

/-- A list of six limbs, limb by limb. -/
theorem exists_six_limbs {wide : List Word} (h : wide.length = 6) : ∃ w0 w1 w2 w3 w4 w5, wide = [w0, w1, w2, w3, w4, w5] :=
  match wide, h with
  | [w0, w1, w2, w3, w4, w5], _ => ⟨w0, w1, w2, w3, w4, w5, rfl⟩

section
variable {wide : List Word} (h : wide.length = 6)
include h

theorem val_lowPart : val (lowPart wide) = val wide % 2 ^ 89 := by
  obtain ⟨w0, w1, w2, w3, w4, w5, rfl⟩ := exists_six_limbs h
  have h0 := w0.isLt
  have h1 := w1.isLt
  simp only [lowPart, val_cons, val_nil, List.getD_cons_zero, List.getD_cons_succ, toNat_and_mask25]
  omega

/-- The high part holds three limbs: of the sixth limb, its low 25 bits. -/
theorem val_highPart (hlt : val wide < 2 ^ 185) : val (highPart wide) = val wide / 2 ^ 89 := by
  obtain ⟨w0, w1, w2, w3, w4, w5, rfl⟩ := exists_six_limbs h
  have h0 := w0.isLt
  have h1 := w1.isLt
  simp only [val_cons, val_nil] at hlt
  simp only [highPart, List.map_cons, List.map_nil, val_cons, val_nil, List.getD_cons_zero, List.getD_cons_succ,
    toNat_shiftRight_or_shiftLeft]
  omega

end

end Sys2Proof.Machine
end

section
/-! The Mersenne reduction (40_limb_arithmetic.md R119 to R123): the three summands of the split, their sum, and what two conditional
subtractions make of it. -/

namespace Sys2Proof.Machine

/-- Each subtraction is of a multiple of `P89`. -/
theorem subtractTwice_modEq (S : Nat) : subtractTwice S ≡ S [MOD Config.p89] := by
  have hsub {T : Nat} (h : Config.p89 ≤ T) : T - Config.p89 ≡ T [MOD Config.p89] :=
    ((Nat.modEq_sub_modulus_iff h).mpr rfl).symm
  unfold subtractTwice
  split_ifs
  · rfl
  · exact hsub (by omega)
  · rw [Nat.two_mul, Nat.sub_add_eq]
    exact (hsub (by omega)).trans (hsub (by omega))

theorem subtractTwice_lt_iff (S : Nat) : subtractTwice S < Config.p89 ↔ S < 3 * Config.p89 := by
  unfold subtractTwice
  split_ifs <;> omega

theorem subtractTwice_three_p89 : subtractTwice (3 * Config.p89) = Config.p89 := by decide

theorem subtractTwice_eq_mod {S : Nat} (h : S < 3 * Config.p89) : subtractTwice S = S % Config.p89 :=
  (Nat.mod_eq_of_lt ((subtractTwice_lt_iff S).mpr h)).symm.trans (subtractTwice_modEq S)

/-- `2^89` is 1 modulo `P89`, so the parts of a split at bit 89 add up to the value (R119). -/
theorem split_modEq (v : Nat) : v % 2 ^ 89 + v / 2 ^ 89 ≡ v [MOD Config.p89] := by
  have hpow : 2 ^ 89 ≡ 1 [MOD Config.p89] := by decide
  calc v % 2 ^ 89 + v / 2 ^ 89 = v % 2 ^ 89 + 1 * (v / 2 ^ 89) := by rw [Nat.one_mul]
    _ ≡ v % 2 ^ 89 + 2 ^ 89 * (v / 2 ^ 89) [MOD Config.p89] := (hpow.symm.mul_right _).add_left _
    _ = v := Nat.mod_add_div v _

/-- The sum of the three summands of the reduction (R119). -/
def reductionSum (wide extra : Nat) : Nat := wide % 2 ^ 89 + wide / 2 ^ 89 + extra

theorem reductionSum_modEq (wide extra : Nat) : reductionSum wide extra ≡ wide + extra [MOD Config.p89] :=
  (split_modEq wide).add_right extra

section
variable {wide extra : Nat} (hwide : wide < 2 ^ 178) (hextra : extra < 2 ^ 89)
include hwide hextra

/-- In the domain each summand is at most `P89` (R121). -/
theorem reductionSum_le : reductionSum wide extra ≤ 3 * Config.p89 := by
  rw [reductionSum, p89_eq]; omega

/-- So the sum is `3·P89` only where every summand is `P89`. -/
theorem reductionSum_lt
    (h : extra ≤ Config.p89 - 1 ∨ wide / 2 ^ 89 ≤ Config.p89 - 1 ∨ wide % 2 ^ 89 ≤ Config.p89 - 1) :
    reductionSum wide extra < 3 * Config.p89 := by
  rw [reductionSum]
  rw [p89_eq] at *
  omega

end

/-- Two conditional subtractions of a sum that is in three limbs. -/
theorem val_condSubP_condSubP_limbs {S : Nat} (h : S ≤ 3 * Config.p89) :
    val (condSubP (condSubP (limbs 3 S))) = subtractTwice S := by
  have hfits : S < 2 ^ (32 * 3) := h.trans_lt (by decide)
  rw [(condSubP_condSubP (limbs_length 3 S)).2, val_limbs, Nat.mod_eq_of_lt hfits]

section
variable {wide extra : List Word} (hextra : extra.length = 3)
include hextra

theorem reduce6Add3_eq :
    reduce6Add3 wide extra = condSubP (condSubP (limbs 3 (val (lowPart wide) + val (highPart wide) + val extra))) := by
  rw [reduce6Add3, addLimbs_eq_limbs (cs := lowPart wide) (ds := highPart wide) rfl hextra]
  rfl

theorem length_reduce6Add3 : (reduce6Add3 wide extra).length = 3 := by
  rw [reduce6Add3_eq hextra]
  exact (condSubP_condSubP (limbs_length _ _)).1

variable (hwide : wide.length = 6)
include hwide

theorem val_reduce6Add3 (hwlt : val wide < 2 ^ 178) (helt : val extra < 2 ^ 89) :
    val (reduce6Add3 wide extra) = subtractTwice (reductionSum (val wide) (val extra)) := by
  rw [reduce6Add3_eq hextra, val_lowPart hwide, val_highPart hwide (hwlt.trans (by decide)), ← reductionSum,
    val_condSubP_condSubP_limbs (reductionSum_le hwlt helt)]

/-- Where the sum of the three summands is below `3·P89`, the result is fully reduced (R121). -/
theorem val_reduce6Add3_eq_mod (hwlt : val wide < 2 ^ 178) (helt : val extra < 2 ^ 89)
    (h : reductionSum (val wide) (val extra) < 3 * Config.p89) :
    val (reduce6Add3 wide extra) = (val wide + val extra) % Config.p89 := by
  rw [val_reduce6Add3 hextra hwide hwlt helt, subtractTwice_eq_mod h]
  exact reductionSum_modEq _ _

end

/-- Settles O26: the addition and the subtractions keep the residue of the sum, which the split has from the operand. -/
theorem reductionThreeCases : Obligations.ReductionThreeCases := by
  intro wide extra hwide hextra hwlt helt
  have hval := val_reduce6Add3 hextra hwide hwlt helt
  refine ⟨val_lowPart hwide, val_highPart hwide (hwlt.trans (by decide)), length_reduce6Add3 hextra, hval, ?_⟩
  rw [hval]
  exact (subtractTwice_modEq _).trans (reductionSum_modEq _ _)

/-- Settles O27: the result is below `P89` exactly where the sum is below `3·P89`, its largest value. -/
theorem reductionCorrectness : Obligations.ReductionCorrectness := by
  intro wide extra hwide hextra hwlt helt S r
  have hr : r = subtractTwice S := val_reduce6Add3 hextra hwide hwlt helt
  have hreduced (h : S < 3 * Config.p89) : r < Config.p89 := by rw [hr]; exact (subtractTwice_lt_iff S).mpr h
  refine ⟨reductionSum_le hwlt helt, fun h => ?_, fun h => ?_, fun h => hreduced (reductionSum_lt hwlt helt h)⟩
  · have hlt : S < 3 * Config.p89 := Nat.lt_of_le_pred (by decide) h
    exact ⟨val_reduce6Add3_eq_mod hextra hwide hwlt helt hlt, hreduced hlt⟩
  · rw [hr, h, subtractTwice_three_p89]

/-- Settles O28: by the same bound, which no split is needed for. -/
theorem twoSubtractionsSuffice : Obligations.TwoSubtractionsSuffice := by
  refine ⟨fun c d e hc hd he => ?_, ?_⟩
  · rw [val_condSubP_condSubP_limbs (by omega), subtractTwice_lt_iff, Nat.lt_iff_le_pred (by decide)]
  · rw [val_condSubP_condSubP_limbs (by omega), ← subtractTwice_three_p89]
    congr 1

/-- Settles O29: the domain check is the routine's bounds. -/
theorem reduceCommandAnswers : Obligations.ReduceCommandAnswers := by
  intro wide extra s
  change (_ → execRed6a3 wide extra s = _) ∧ (_ → execRed6a3 wide extra s = _)
  have hdomain : reduceDomain wide extra = true ↔ wide.toNat < 2 ^ 178 ∧ extra.toNat < 2 ^ 89 := by
    simp only [reduceDomain, Bool.and_eq_true, decide_eq_true_eq]
  refine ⟨fun h => checkDomain_false (Bool.eq_false_iff.mpr (mt hdomain.mp h)) s _, fun h => ?_⟩
  have hwide : (operandWords wide).length = 6 := operandWords_length wide
  have hextra : (operandWords extra).length = 3 := operandWords_length extra
  have hval := val_reduce6Add3 hextra hwide
  rw [val_operandWords rfl, val_operandWords rfl] at hval
  obtain ⟨hwlt, helt⟩ := h
  rw [execRed6a3, checkDomain_true (hdomain.mpr ⟨hwlt, helt⟩), eq_limbs (length_reduce6Add3 hextra) (hval hwlt helt), reply_eq]
  rfl

/-- Settles O30: a zero addend makes the reduction a full one, and five limbs are in its bounds. -/
theorem mod5Answers : Obligations.Mod5Answers := by
  intro l v s
  change execMod5 l v s = _
  rw [execMod5]
  split
  next h => exact checkWidth_illegal h s _
  next h =>
    have hv := v.isLt
    have hwide : (operandWords v ++ [0]).length = 6 := by simp
    have hval : val (operandWords v ++ [0]) = v.toNat := by
      rw [val_append, val_operandWords rfl]; simp
    have hwlt : val (operandWords v ++ [0]) < 2 ^ 178 := by rw [hval]; omega
    have hzero : val zero3 = 0 := rfl
    rw [checkWidth_legal (by omega), replyValue_eq, val_reduce6Add3_eq_mod rfl hwide hwlt (by decide)
      (reductionSum_lt hwlt (by decide) (.inl (by decide))), hval, hzero, Nat.add_zero]

end Sys2Proof.Machine
end

section
/-! The fold by one addition and one subtraction (41_multiply_mod_prime.md R141), and the hashes modulo the two small primes. -/

namespace Sys2Proof.Machine

/-- Below twice the modulus one conditional subtraction is the residue. -/
theorem ite_sub_eq_mod {p f : Nat} (h : f < 2 * p) : (if p ≤ f then f - p else f) = f % p := by
  split
  next hle => rw [Nat.mod_eq_sub_mod hle, Nat.mod_eq_of_lt (by omega)]
  next hlt => rw [Nat.mod_eq_of_lt (by omega)]

/-- `2^k` is 1 modulo `2^k − 1`, so the two parts add up to the value. -/
theorem foldSum_modEq (k y : Nat) : y % 2 ^ k + y / 2 ^ k ≡ y [MOD 2 ^ k - 1] := by
  have hpow : 2 ^ k ≡ 1 [MOD 2 ^ k - 1] := Nat.modEq_sub Nat.one_le_two_pow
  have hparts := (hpow.symm.mul_right (y / 2 ^ k)).add_left (y % 2 ^ k)
  rwa [Nat.one_mul, Nat.mod_add_div] at hparts

/-- The fold is the residue wherever its high part is below the prime (R141). -/
theorem fold_eq_mod {k y : Nat} (h : y < (2 ^ k - 1) * 2 ^ k) : fold k y = y % (2 ^ k - 1) := by
  have hhigh : y / 2 ^ k < 2 ^ k - 1 := (Nat.div_lt_iff_lt_mul (Nat.two_pow_pos k)).mpr h
  have hlow : y % 2 ^ k < 2 ^ k := Nat.mod_lt _ (Nat.two_pow_pos k)
  rw [fold, ite_sub_eq_mod (by omega)]
  exact foldSum_modEq k y

/-- The largest in-domain product-sum (R141). -/
theorem productSum_le {p a b x : Nat} (ha : a < p) (hb : b < p) (hx : x < p) : a * x + b ≤ (p - 1) * p := by
  calc a * x + b ≤ (p - 1) * (p - 1) + (p - 1) := Nat.add_le_add
        (Nat.mul_le_mul (Nat.le_sub_one_of_lt ha) (Nat.le_sub_one_of_lt hx)) (Nat.le_sub_one_of_lt hb)
    _ = (p - 1) * (p - 1 + 1) := (Nat.mul_succ _ _).symm
    _ = (p - 1) * p := by rw [Nat.sub_add_cancel (by omega)]

/-- The bound of R141 is within that of the fold. -/
theorem fold_eq_mod_of_le {k y : Nat} (hk : 0 < k) (h : y ≤ (2 ^ k - 1 - 1) * (2 ^ k - 1)) :
    fold k y = y % (2 ^ k - 1) := by
  have hp : 0 < 2 ^ k - 1 := Nat.sub_pos_of_lt (Nat.one_lt_two_pow hk.ne')
  apply fold_eq_mod
  calc y ≤ (2 ^ k - 1 - 1) * (2 ^ k - 1) := h
    _ ≤ (2 ^ k - 1) * (2 ^ k - 1) := Nat.mul_le_mul_right _ (Nat.sub_le _ _)
    _ < (2 ^ k - 1) * 2 ^ k := Nat.mul_lt_mul_of_pos_left (by omega) hp

/-- The fold of an in-domain product-sum is its residue. -/
theorem fold_productSum {k a b x : Nat} (ha : a < 2 ^ k - 1) (hb : b < 2 ^ k - 1) (hx : x < 2 ^ k - 1) :
    fold k (a * x + b) = (a * x + b) % (2 ^ k - 1) := by
  refine fold_eq_mod_of_le (Nat.pos_of_ne_zero fun hk => ?_) (productSum_le ha hb hx)
  rw [hk] at ha
  exact Nat.not_lt_zero a ha

/-- Settles O31: the bound is `(p − 1)·p` written with `2^k`. -/
theorem foldIsResidue : Obligations.FoldIsResidue := by
  intro k hk
  have hpos : 0 < k := by omega
  exact ⟨fun _ => fold_eq_mod_of_le hpos, fun _ _ _ => productSum_le⟩

theorem hash31_eq {l a b x : Nat} (ha : a < Config.p31) (hb : b < Config.p31) (hx : x < Config.p31) :
    hash31 l a b x = (a * x + b) % Config.p31 % 2 ^ l := by
  rw [hash31, fold_productSum ha hb hx, Config.p31]

/-- Every outcome of a hash command, in check order: E_WIDTH, then E_DOMAIN, then the value, which need be right only for
operands in the domain. -/
theorem hashCommand_eq {m l n v w : Nat} {b : Bool} {outside : Prop} [Decidable outside] (s : State)
    (hb : b = true ↔ ¬ outside) (hv : ¬ outside → v = w) :
    checkWidth m l s (checkDomain b s (replyValue n v s)) =
      .next (if l = 0 ∨ m < l then s.failing 3 else if outside then s.failing 6 else s.answering (limbs n w)) := by
  split
  next hl => exact checkWidth_illegal hl s _
  next hl =>
    rw [checkWidth_legal (by omega)]
    split
    next hout => exact checkDomain_false (Bool.eq_false_iff.mpr fun h => hb.mp h hout) s _
    next hin => rw [checkDomain_true (hb.mpr hin), replyValue_eq, hv hin]

/-- Settles O32: in the domain the fold is the residue. -/
theorem smallPrimeHashesAnswer : Obligations.SmallPrimeHashesAnswer := by
  refine ⟨fun l a b x s => ?_, fun l a b x s => ?_⟩
  · change execMmp31 l a b x s = _
    refine hashCommand_eq s (by simp [and_assoc]) fun hin => ?_
    simp only [not_or, Nat.not_le] at hin
    obtain ⟨ha, hb, hx⟩ := hin
    exact hash31_eq ha hb hx
  · change execMmp61 l a b x s = _
    refine hashCommand_eq s (by simp [and_assoc]) fun hin => ?_
    simp only [not_or, Nat.not_le] at hin
    obtain ⟨ha, hb, hx⟩ := hin
    rw [fold_productSum ha hb hx, Config.p61]

/-- The slices of a 64-bit input as numbers (R146). -/
theorem slices_eq (x : BitVec 64) :
    slices x = (x.toNat % 2 ^ 30, x.toNat / 2 ^ 30 % 2 ^ 30, x.toNat / 2 ^ 60) := by
  have htop : x.toNat / 2 ^ 60 % 2 ^ 4 = x.toNat / 2 ^ 60 := by have := x.isLt; omega
  simp only [slices, BitVec.extractLsb'_toNat, Nat.shiftRight_eq_div_pow, htop, Nat.pow_zero, Nat.div_one]

/-- Settles O35: a slice of at most 30 bits is in the domain whatever the input is. -/
theorem tripleHashAnswers : Obligations.TripleHashAnswers := by
  intro l a0 b0 a1 b1 a2 b2 x s
  change execMmp31x3 l a0 b0 a1 b1 a2 b2 x s = _
  have hx0 : x.toNat % 2 ^ 30 < Config.p31 := (Nat.mod_lt _ (Nat.two_pow_pos 30)).trans (by decide)
  have hx1 : x.toNat / 2 ^ 30 % 2 ^ 30 < Config.p31 := (Nat.mod_lt _ (Nat.two_pow_pos 30)).trans (by decide)
  have hx2 : x.toNat / 2 ^ 60 < Config.p31 := (Nat.div_lt_of_lt_mul (k := 2 ^ 4) x.isLt).trans (by decide)
  refine hashCommand_eq s (by simp) fun hin => ?_
  simp only [not_or, Nat.not_le] at hin
  obtain ⟨ha0, hb0, ha1, hb1, ha2, hb2⟩ := hin
  rw [slices_eq, hash31_eq ha0 hb0 hx0, hash31_eq ha1 hb1 hx1, hash31_eq ha2 hb2 hx2]

end Sys2Proof.Machine
end

section
/-! The hash modulo the large prime by the limb routines (41_multiply_mod_prime.md R144, R145): the addend goes into the multiply or into
the reduction. -/

namespace Sys2Proof.Machine

/-- A 5-limb value with a zero sixth limb is within the reduction's bound, so a reduced addend makes the result the exact residue. -/
theorem val_reduce6Add3_fiveLimbs {v extra : List Word} (hv : v.length = 5) (hextra : extra.length = 3)
    (he : val extra < Config.p89) : val (reduce6Add3 (v ++ [0]) extra) = (val v + val extra) % Config.p89 := by
  have hlen : (v ++ [0]).length = 6 := by simp [hv]
  have hval : val (v ++ [0]) = val v := by rw [val_append]; simp
  have hwlt : val (v ++ [0]) < 2 ^ 178 := by
    have hlt := val_lt v
    rw [hv] at hlt
    rw [hval]
    exact hlt.trans (by decide)
  have helt : val extra < 2 ^ 89 := he.trans (by decide)
  rw [val_reduce6Add3_eq_mod hextra hlen hwlt helt (reductionSum_lt hwlt helt (.inl (Nat.le_sub_one_of_lt he))), hval]

/-- The data path with an addend `d` in the multiply and a reduced addend `e` in the reduction gives the limbs of the residue. -/
theorem reduce6Add3_mul3xnAdd3 (a d : BitVec 96) {e : BitVec 96} (x : BitVec 64) (he : e.toNat < Config.p89) :
    reduce6Add3 (mul3xnAdd3 (operandWords a) (operandWords x) (operandWords d) ++ [0]) (operandWords e) =
      limbs 3 ((a.toNat * x.toNat + d.toNat + e.toNat) % Config.p89) := by
  have hrows : (operandWords a).length = (operandWords d).length := by simp
  have hlen : (mul3xnAdd3 (operandWords a) (operandWords x) (operandWords d)).length = 5 := by
    rw [length_mul3xnAdd3 hrows, operandWords_length, operandWords_length]
  have hextra : (operandWords e).length = 3 := operandWords_length e
  have hval := val_reduce6Add3_fiveLimbs hlen hextra
  rw [val_mul3xnAdd3 hrows, val_operandWords rfl, val_operandWords rfl, val_operandWords rfl, val_operandWords rfl] at hval
  exact eq_limbs (length_reduce6Add3 hextra) (hval he)

/-- `b` added in the multiply. -/
theorem reduce6Add3_addend_in_multiply (a b : BitVec 96) (x : BitVec 64) :
    reduce6Add3 (mul3xnAdd3 (operandWords a) (operandWords x) (operandWords b) ++ [0]) zero3 =
      limbs 3 ((a.toNat * x.toNat + b.toNat) % Config.p89) :=
  reduce6Add3_mul3xnAdd3 a b (e := 0) x (by decide)

/-- `b` added in the reduction. -/
theorem reduce6Add3_addend_in_reduction (a : BitVec 96) {b : BitVec 96} (x : BitVec 64) (hb : b.toNat < Config.p89) :
    reduce6Add3 (mul3xnAdd3 (operandWords a) (operandWords x) zero3 ++ [0]) (operandWords b) =
      limbs 3 ((a.toNat * x.toNat + b.toNat) % Config.p89) :=
  reduce6Add3_mul3xnAdd3 a 0 x hb

/-- A residue modulo `P89` is in three limbs. -/
theorem val_limbs_mod_p89 (v : Nat) : val (limbs 3 (v % Config.p89)) = v % Config.p89 := by
  have hlt : v % Config.p89 < 2 ^ (32 * 3) := (Nat.mod_lt v (by decide)).trans (by decide)
  rw [val_limbs, Nat.mod_eq_of_lt hlt]

/-- Settles O34: both data paths give the limbs of the residue of `a·x + b`. -/
theorem twoDataPathsAgree : Obligations.TwoDataPathsAgree := by
  intro a b x _ hb
  rw [reduce6Add3_addend_in_multiply, reduce6Add3_addend_in_reduction a x hb]
  exact ⟨rfl, val_limbs_mod_p89 _⟩

/-- Settles O33: the command adds `b` in the multiply. -/
theorem largePrimeHashAnswers : Obligations.LargePrimeHashAnswers := by
  intro l a b x s
  change execMmp89 l a b x s = _
  refine hashCommand_eq s (by simp [isFieldElement]) fun _ => ?_
  rw [reduce6Add3_addend_in_multiply, val_limbs_mod_p89]

end Sys2Proof.Machine
end

section
/-! Plain and affine multiply-shift (42_multiply_shift.md R160 to R166): the coefficients are unconstrained, so the one check is on L. -/

namespace Sys2Proof.Machine

/-- Every outcome of a command whose one check is on L: E_WIDTH, else the value. -/
theorem checkWidth_replyValue (m l n v : Nat) (s : State) :
    checkWidth m l s (replyValue n v s) = .next (if l = 0 ∨ m < l then s.failing 3 else s.answering (limbs n v)) := by
  split
  next hl => exact checkWidth_illegal hl s _
  next hl => rw [checkWidth_legal (by omega), replyValue_eq]

/-- Settles O37: one construction at three domain widths. -/
theorem plainMultiplyShiftAnswers : Obligations.PlainMultiplyShiftAnswers := by
  refine ⟨fun l a x s => ?_, fun l a x s => ?_, fun l a x s => ?_⟩
  · change execMs32 l a x s = _
    rw [execMs32, checkWidth_replyValue, mulShift_toNat]
  · change execMs64 l a x s = _
    rw [execMs64, checkWidth_replyValue, mulShift_toNat]
  · change execMs128 l a x s = _
    rw [execMs128, checkWidth_replyValue, mulShift_toNat]

/-- Settles O38: one construction at three domain widths, each within its working width. -/
theorem strongMultiplyShiftAnswers : Obligations.StrongMultiplyShiftAnswers := by
  refine ⟨fun l a b x s => ?_, fun l a b x s => ?_, fun l a b x s => ?_⟩
  · change execMss32 l a b x s = _
    rw [execMss32, checkWidth_replyValue, mulShiftStrong_toNat (by decide)]
  · change execMss64 l a b x s = _
    rw [execMss64, checkWidth_replyValue, mulShiftStrong_toNat (by decide)]
  · change execMss128 l a b x s = _
    rw [execMss128, checkWidth_replyValue, mulShiftStrong_toNat (by decide)]

end Sys2Proof.Machine
end

section
/-! The accumulated sums of the one-shot vector hashes (43_vector_block.md R181, R182) as numbers: every term wraps modulo `2^64`, so the
sum does. -/

namespace Sys2Proof.Machine

theorem foldl_add_toNat {ι : Type} {g : ι → BitVec 64} {f : ι → Nat} (hg : ∀ i, (g i).toNat = f i % 2 ^ 64) (is : List ι)
    (acc : BitVec 64) : (is.foldl (fun s i => s + g i) acc).toNat = (acc.toNat + (is.map f).sum) % 2 ^ 64 := by
  induction is generalizing acc with
  | nil => exact (Nat.mod_eq_of_lt acc.isLt).symm
  | cons i is ih =>
    rw [List.foldl_cons, ih, BitVec.toNat_add, hg, List.map_cons, List.sum_cons, Nat.add_mod_mod, Nat.mod_add_mod,
      Nat.add_assoc]

/-- The same over all indices below `n`, from zero. -/
theorem foldl_finRange_add_toNat {n : Nat} {g : Fin n → BitVec 64} {f : Fin n → Nat}
    (hg : ∀ i, (g i).toNat = f i % 2 ^ 64) :
    ((List.finRange n).foldl (fun s i => s + g i) 0).toNat = (∑ i, f i) % 2 ^ 64 := by
  simpa [Fin.sum_univ_def] using foldl_add_toNat hg (List.finRange n) 0

theorem dotSum_toNat (a : Keys) (x : Lanes) :
    (dotSum a x).toNat = (∑ i : Fin 64, (a[i]).toNat * (x[i]).toNat) % 2 ^ 64 := by
  refine foldl_finRange_add_toNat fun i => ?_
  rw [BitVec.toNat_mul, BitVec.toNat_setWidth_of_le (by decide)]

theorem pairedSum_toNat (a : Keys) (x : Lanes) :
    (pairedSum a x).toNat = (∑ i : Fin 32,
      ((a[2 * i.val]).toNat + (x[2 * i.val + 1]).toNat) * ((a[2 * i.val + 1]).toNat + (x[2 * i.val]).toNat)) % 2 ^ 64 := by
  refine foldl_finRange_add_toNat fun i => ?_
  rw [pairProduct_toNat, BitVec.toNat_setWidth_of_le (by decide), BitVec.toNat_setWidth_of_le (by decide)]

/-- Settles O39: the finishing key is added to the wrapped sum. -/
theorem dotProductAnswers : Obligations.DotProductAnswers := by
  intro l a b x s
  change execVdot l a b x s = _
  rw [execVdot, checkWidth_replyValue, topBits_toNat, dotSum_toNat, Nat.add_mod_mod]

/-- Settles O40: as for VDOT, over the 32 pairs. -/
theorem pairedDotProductAnswers : Obligations.PairedDotProductAnswers := by
  intro l a b x s
  change execVdotp l a b x s = _
  rw [execVdotp, checkWidth_replyValue, topBits_toNat, pairedSum_toNat, Nat.add_mod_mod]

end Sys2Proof.Machine
end

section
/-! The commands of the pair filter on a context that is there, and valid where it must be (43_vector_block.md R183 to R191). -/

namespace Sys2Proof.Machine

section
variable {s : State} {j : Nat} {f : PfContext} (hf : s.pf[j]? = some f) (hv : f.valid = true)
include hf hv

theorem execPfIsdone_of_valid :
    exec (.pfIsdone j) s = .next (s.answering [if f.buf.cur = 32 then 1#32 else 0#32]) := by
  have hdone : limbs 1 (fbDone f.buf).toNat = [if f.buf.cur = 32 then 1#32 else 0#32] := by
    simp only [← fbDone_iff]
    cases fbDone f.buf <;> rfl
  rw [← hdone]
  exact (withContext_some hf s _).trans (checkValid_true hv s _)

/-- A filter that has a slot for the word is not full, so PF.WRITE stores what the write step leaves. -/
theorem execPfWrite_of_fbWrite {x : BitVec 64} {buf : FilterBuffer} (hw : fbWrite f.buf x = some buf) :
    exec (.pfWrite j x) s = .next ((s.setPf j { f with buf := buf }).answering []) := by
  obtain ⟨hlt, -⟩ := fbWrite_frame hw
  have hfull : ¬ fbDone f.buf = true := by rw [fbDone_iff]; omega
  refine ((withContext_some hf s _).trans (checkValid_true hv s _)).trans ?_
  rw [if_neg hfull, hw]
  rfl

end

/-- The running sum after a write, as a number that wraps (R187). -/
theorem add_pairProduct_lanes (sum keyEven keyOdd : Key) (x : BitVec 64) :
    sum + pairProduct keyEven keyOdd (evenLane x) (oddLane x) = BitVec.ofNat 64 (sum.toNat +
      (keyEven.toNat + x.toNat / 2 ^ 32) * (keyOdd.toNat + x.toNat % 2 ^ 32)) := by
  apply BitVec.eq_of_toNat_eq
  rw [BitVec.toNat_add, pairProduct_toNat, evenLane_toNat, oddLane_toNat, BitVec.toNat_ofNat, Nat.add_mod_mod]

/-- Settles O42: below capacity both key slots exist. -/
theorem pairFilterWriteAccumulates : Obligations.PairFilterWriteAccumulates := by
  intro j f x s hcur hf hv
  rw [execPfWrite_of_fbWrite hf hv (fbWrite_some hcur x), add_pairProduct_lanes, hv]
  rfl

/-- Settles O41: none of the three is refused on such a context. -/
theorem pairFilterCommandsAnswer : Obligations.PairFilterCommandsAnswer := by
  refine ⟨fun j k kb s hj => execPfNew_of_lt hj k kb, fun j f s hf hv => execPfIsdone_of_valid hf hv,
    fun j l f s h1 h2 hf hv => ?_⟩
  rw [execPfFinish_of_valid ⟨h1, h2⟩ hf hv, fbDigest_toNat, PfContext.fresh, hv]
  rfl

end Sys2Proof.Machine
end

section
/-! R192: the streaming pair filter computes the paired hash of the words written, which with 32 words is what VDOTP computes. -/

namespace Sys2Proof.Machine

theorem execAll_append {is js : List Instr} {s u : State} (h : execAll is s = .next u) :
    execAll (is ++ js) s = execAll js u := by
  induction is generalizing s with
  | nil => cases h; rfl
  | cons i is ih =>
    obtain ⟨v, hv, hrest⟩ := (execAll_cons i is s u).mp h
    rw [List.cons_append, execAll, hv]
    exact ih hrest

theorem execAll_singleton {i : Instr} {s t : State} (h : exec i s = .next t) : execAll [i] s = .next t :=
  (execAll_cons i [] s t).mpr ⟨t, h, rfl⟩

/-- A stream of at most `n` writes: when each write completes with an empty response, and takes a state that holds the words before it
to one that holds those and its own, the stream leaves a state that holds all of its words. -/
theorem execAll_writes {n : Nat} {write : BitVec 64 → Instr} {Holds : List (BitVec 64) → State → Prop}
    (hwrite : ∀ ws x u, ws.length < n → Holds ws u →
      ∃ v, exec (write x) u = .next v ∧ Holds (ws ++ [x]) v ∧ v.responses = u.responses ++ [⟨0, []⟩])
    {s : State} (hs : Holds [] s) (ws : List (BitVec 64)) (hn : ws.length ≤ n) :
    ∃ t, execAll (ws.map write) s = .next t ∧ Holds ws t ∧
      t.responses = s.responses ++ List.replicate ws.length ⟨0, []⟩ := by
  induction ws using List.reverseRecOn with
  | nil => exact ⟨s, rfl, hs, (List.append_nil _).symm⟩
  | append_singleton ws x ih =>
    rw [List.length_append, List.length_singleton] at hn
    obtain ⟨u, hu, hholds, hresponses⟩ := ih (by omega)
    obtain ⟨t, ht, hholds', hresponses'⟩ := hwrite ws x u (by omega) hholds
    refine ⟨t, ?_, hholds', ?_⟩
    · rw [List.map_append, execAll_append hu]
      exact execAll_singleton ht
    · rw [hresponses', hresponses, List.append_assoc, List.length_append, List.length_singleton, List.replicate_succ']

/-- The sum that the words `ws` accumulate under the keys `k`, before it wraps (R187). -/
def pairSum (k : Keys) (ws : List (BitVec 64)) : Nat := ∑ i ∈ Finset.range ws.length, pairTerm k ws i

/-- A term reads its own word only. -/
theorem pairTerm_append_left (k : Keys) {ws : List (BitVec 64)} (xs : List (BitVec 64)) {i : Nat} (hi : i < ws.length) :
    pairTerm k (ws ++ xs) i = pairTerm k ws i := by
  rw [pairTerm, pairTerm, List.getD_append _ _ _ _ hi]

theorem pairTerm_of_lt (k : Keys) (ws : List (BitVec 64)) {i : Nat} (hi : i < 32) :
    pairTerm k ws i = ((k[2 * i]).toNat + (ws.getD i 0).toNat / 2 ^ 32) *
      ((k[2 * i + 1]).toNat + (ws.getD i 0).toNat % 2 ^ 32) := by
  rw [pairTerm, Vector.getElem?_eq_getElem (by omega), Vector.getElem?_eq_getElem (by omega)]
  rfl

theorem pairSum_append_singleton (k : Keys) {ws : List (BitVec 64)} (x : BitVec 64) (h : ws.length < 32) :
    pairSum k (ws ++ [x]) = pairSum k ws +
      ((k[2 * ws.length]).toNat + x.toNat / 2 ^ 32) * ((k[2 * ws.length + 1]).toNat + x.toNat % 2 ^ 32) := by
  have hlast : (ws ++ [x]).getD ws.length 0 = x := by simp
  have hbefore : ∑ i ∈ Finset.range ws.length, pairTerm k (ws ++ [x]) i = pairSum k ws :=
    Finset.sum_congr rfl fun i hi => pairTerm_append_left k [x] (Finset.mem_range.mp hi)
  rw [pairSum, List.length_append, List.length_singleton, Finset.sum_range_succ, hbefore, pairTerm_of_lt k _ h, hlast]

/-- The filter buffer that NEW made with the keys `k` and `kb` and that the words `ws` were written to since (R183, R187). -/
def fbHolding (k : Keys) (kb : Key) (ws : List (BitVec 64)) : FilterBuffer :=
  ⟨k, kb, BitVec.ofNat 64 (pairSum k ws), ws.length⟩

theorem fbHolding_nil (k : Keys) (kb : Key) : fbHolding k kb [] = fbNew k kb := rfl

theorem fbWrite_fbHolding (k : Keys) (kb : Key) {ws : List (BitVec 64)} (x : BitVec 64) (h : ws.length < 32) :
    fbWrite (fbHolding k kb ws) x = some (fbHolding k kb (ws ++ [x])) := by
  rw [fbWrite_some (f := fbHolding k kb ws) h, add_pairProduct_lanes]
  simp only [fbHolding, pairSum_append_singleton k x h, BitVec.ofNat_add, BitVec.ofNat_toNat, BitVec.setWidth_eq,
    List.length_append, List.length_singleton]

theorem fbDigest_fbHolding (k : Keys) (kb : Key) (ws : List (BitVec 64)) (l : Nat) :
    (fbDigest (fbHolding k kb ws) l).toNat = pairHash k kb ws l := by
  rw [fbDigest_toNat, fbHolding, BitVec.toNat_ofNat, Nat.add_mod_mod, pairSum, pairHash]

/-- The filter `j` is valid, with the given keys, and holds the words `ws`. -/
def FilterHolds (j : Nat) (k : Keys) (kb : Key) (ws : List (BitVec 64)) (s : State) : Prop :=
  s.pf[j]? = some ⟨true, fbHolding k kb ws⟩

section
variable {j : Nat} {k : Keys} {kb : Key} {s : State}

theorem execPfNew_filterHolds (hj : j < s.pf.length) (k : Keys) (kb : Key) :
    ∃ t, exec (.pfNew j k kb) s = .next t ∧ FilterHolds j k kb [] t ∧ t.responses = s.responses ++ [⟨0, []⟩] :=
  ⟨_, execPfNew_of_lt hj k kb, List.getElem?_set_self hj, rfl⟩

theorem execPfWrite_filterHolds {ws : List (BitVec 64)} (x : BitVec 64) (hlen : ws.length < 32)
    (hs : FilterHolds j k kb ws s) :
    ∃ t, exec (.pfWrite j x) s = .next t ∧ FilterHolds j k kb (ws ++ [x]) t ∧
      t.responses = s.responses ++ [⟨0, []⟩] := by
  obtain ⟨hj, -⟩ := List.getElem?_eq_some_iff.mp hs
  exact ⟨_, execPfWrite_of_fbWrite hs rfl (fbWrite_fbHolding k kb x hlen), List.getElem?_set_self hj, rfl⟩

theorem execPfFinish_filterHolds {l : Nat} (hl : 1 ≤ l ∧ l ≤ 32) {ws : List (BitVec 64)} (hs : FilterHolds j k kb ws s) :
    ∃ t, exec (.pfFinish j l) s = .next t ∧ t.responses = s.responses ++ [⟨0, limbs 1 (pairHash k kb ws l)⟩] :=
  ⟨_, execPfFinish_of_valid hl hs rfl, by rw [← fbDigest_fbHolding]; rfl⟩

/-- A stream of words through a filter, from its NEW to its FINISH, is answered with the words' paired hash. -/
theorem execAll_filterStream (hj : j < s.pf.length) (k : Keys) (kb : Key) {l : Nat} (hl : 1 ≤ l ∧ l ≤ 32)
    {ws : List (BitVec 64)} (hlen : ws.length ≤ 32) :
    ∃ t, execAll (.pfNew j k kb :: ws.map (.pfWrite j) ++ [.pfFinish j l]) s = .next t ∧
      t.responses = s.responses ++ List.replicate (ws.length + 1) ⟨0, []⟩ ++ [⟨0, limbs 1 (pairHash k kb ws l)⟩] := by
  obtain ⟨u, hnew, hu, hresponses⟩ := execPfNew_filterHolds hj k kb
  obtain ⟨v, hwrites, hv, hresponses'⟩ :=
    execAll_writes (fun _ x _ hlt hs => execPfWrite_filterHolds x hlt hs) hu ws hlen
  obtain ⟨t, hfinish, hresponses''⟩ := execPfFinish_filterHolds hl hv
  have hstream : execAll (.pfNew j k kb :: ws.map (.pfWrite j)) s = .next v := (execAll_cons _ _ s v).mpr ⟨u, hnew, hwrites⟩
  refine ⟨t, (execAll_append hstream).trans (execAll_singleton hfinish), ?_⟩
  rw [hresponses'', hresponses', hresponses, List.append_assoc s.responses, List.singleton_append, ← List.replicate_succ]

end

/-- The sum of VDOTP over lanes that are the halves of 32 words is the sum those words accumulate in a filter. -/
theorem sum_pairs_eq_pairSum (k : Keys) {ws : List (BitVec 64)} {x : Lanes} (hlen : ws.length = 32)
    (hx : ∀ i : Fin 32, (x[2 * i.val]).toNat = (ws.getD i.val 0).toNat % 2 ^ 32 ∧
      (x[2 * i.val + 1]).toNat = (ws.getD i.val 0).toNat / 2 ^ 32) :
    ∑ i : Fin 32, ((k[2 * i.val]).toNat + (x[2 * i.val + 1]).toNat) * ((k[2 * i.val + 1]).toNat + (x[2 * i.val]).toNat) =
      pairSum k ws := by
  rw [pairSum, hlen, Finset.sum_range]
  refine Finset.sum_congr rfl fun i _ => ?_
  obtain ⟨heven, hodd⟩ := hx i
  rw [pairTerm_of_lt k ws i.isLt, heven, hodd]

/-- Settles O43: by the words the filter holds after each write, and the sum of VDOTP over the same pairs. -/
theorem filterAgreesWithOneShot : Obligations.FilterAgreesWithOneShot := by
  refine ⟨fun s j l k kb ws hj h1 h2 hlen => execAll_filterStream hj k kb ⟨h1, h2⟩ hlen,
    fun s l k kb ws x h1 h2 hlen hx => ?_⟩
  have hlegal : ¬ (l = 0 ∨ 32 < l) := by omega
  rw [pairedDotProductAnswers, if_neg hlegal, sum_pairs_eq_pairSum k hlen hx, pairSum, pairHash]

end Sys2Proof.Machine
end

section
/-! The commands of the polynomial hasher on a context that is there, and valid where it must be (44_poly_stream.md R211 to R215). -/

namespace Sys2Proof.Machine

/-- Settles O44: the three commands with the closed forms of their internal functions (R213, R215) written out. -/
theorem polynomialHasherCommandsAnswer : Obligations.PolynomialHasherCommandsAnswer :=
  ⟨fun _ _ _ _ _ hi ha hb hc => execPhNew_of_inDomain hi ha hb hc,
    fun _ _ x _ hh hv => execPhWrite_of_valid hh hv x,
    fun _ _ _ _ h1 h2 hh hv => execPhFinish_of_valid ⟨h1, h2⟩ hh hv⟩

end Sys2Proof.Machine
end

section
/-! The polynomial hasher by the limb routines (44_poly_stream.md R216): a product of two reduced elements leaves room in the reduction
for any addend below `2^89`. -/

namespace Sys2Proof.Machine

theorem phWrite_toNat (c state : FieldElement) (x : BitVec 64) :
    (phWrite c state x).toNat = (c.toNat * state.toNat + x.toNat) % Config.p89 := by
  have hlt : (c.toNat * state.toNat + x.toNat) % Config.p89 < 2 ^ 89 := (Nat.mod_lt _ (by decide)).trans (by decide)
  rw [phWrite, BitVec.toNat_ofNat, Nat.mod_eq_of_lt hlt]

/-- A stored element is in three limbs. -/
theorem val_limbs_fieldElement (v : FieldElement) : val (limbs 3 v.toNat) = v.toNat := by
  rw [val_limbs, Nat.mod_eq_of_lt (v.isLt.trans (by decide))]

/-- The multiply of the hasher's data path. -/
theorem mul3xnAdd3_fieldElements (u v : FieldElement) :
    (mul3xnAdd3 (limbs 3 u.toNat) (limbs 3 v.toNat) zero3).length = 6 ∧
      val (mul3xnAdd3 (limbs 3 u.toNat) (limbs 3 v.toNat) zero3) = u.toNat * v.toNat := by
  have hrows : (limbs 3 u.toNat).length = zero3.length := limbs_length 3 _
  have hzero : val zero3 = 0 := rfl
  refine ⟨by rw [length_mul3xnAdd3 hrows, limbs_length, limbs_length], ?_⟩
  rw [val_mul3xnAdd3 hrows, val_limbs_fieldElement, val_limbs_fieldElement, hzero, Nat.add_zero]

section
variable {u v : FieldElement} (hu : u.toNat < Config.p89) (hv : v.toNat < Config.p89)
include hu hv

/-- A product of two reduced elements is within the reduction's bound, and its high part is reduced. -/
theorem mul_fieldElements_bounds :
    u.toNat * v.toNat < 2 ^ 178 ∧ u.toNat * v.toNat / 2 ^ 89 ≤ Config.p89 - 1 := by
  have hle : u.toNat * v.toNat ≤ (Config.p89 - 1) * (Config.p89 - 1) :=
    Nat.mul_le_mul (Nat.le_sub_one_of_lt hu) (Nat.le_sub_one_of_lt hv)
  exact ⟨hle.trans_lt (by decide), (Nat.div_le_div_right hle).trans (by decide)⟩

/-- So the data path gives the exact residue, the addend being reduced or not. -/
theorem val_reduce6Add3_mul_fieldElements {extra : List Word} (hextra : extra.length = 3) (helt : val extra < 2 ^ 89) :
    val (reduce6Add3 (mul3xnAdd3 (limbs 3 u.toNat) (limbs 3 v.toNat) zero3) extra) =
      (u.toNat * v.toNat + val extra) % Config.p89 := by
  obtain ⟨hlen, hval⟩ := mul3xnAdd3_fieldElements u v
  obtain ⟨hwlt, hhigh⟩ := mul_fieldElements_bounds hu hv
  rw [← hval] at hwlt hhigh ⊢
  exact val_reduce6Add3_eq_mod hextra hlen hwlt helt (reductionSum_lt hwlt helt (.inr (.inl hhigh)))

end

/-- Settles O45: the addend is the word with a zero third limb, or the stored offset. -/
theorem limbRealisationOfHasher : Obligations.LimbRealisationOfHasher := by
  refine ⟨fun c state x hc hstate => ?_, fun a b state l ha _ hstate _ _ => ?_⟩
  · have hval : val (operandWords x ++ [0]) = x.toNat := by
      rw [val_append, val_operandWords rfl]; simp
    have hlen : (operandWords x ++ [0]).length = 3 := by simp
    have hlt : val (operandWords x ++ [0]) < 2 ^ 89 := by rw [hval]; exact x.isLt.trans (by decide)
    rw [phWriteLimbs, val_reduce6Add3_mul_fieldElements hc hstate hlen hlt, hval, phWrite_toNat]
  · have hlt : val (limbs 3 b.toNat) < 2 ^ 89 := by rw [val_limbs_fieldElement]; exact b.isLt
    rw [phFinishLimbs, val_reduce6Add3_mul_fieldElements ha hstate (limbs_length 3 _) hlt, val_limbs_fieldElement, phFinish]

end Sys2Proof.Machine
end

section
/-! R217: the streaming hasher evaluates the polynomial of the words written, by Horner's rule. -/

namespace Sys2Proof.Machine

/-- One step of Horner's rule: a further word multiplies every term by `c` and adds its own. -/
theorem polynomial_append_singleton (c : Nat) (ws : List (BitVec 64)) (x : BitVec 64) :
    polynomial c (ws ++ [x]) = c * polynomial c ws + x.toNat := by
  have hlast : (ws ++ [x]).getD ws.length 0 = x := by simp
  have hbefore : ∀ j ∈ Finset.range ws.length,
      ((ws ++ [x]).getD j 0).toNat * c ^ (ws.length - j) = c * ((ws.getD j 0).toNat * c ^ (ws.length - 1 - j)) := by
    intro j hj
    have hj := Finset.mem_range.mp hj
    have hexp : ws.length - j = ws.length - 1 - j + 1 := by omega
    rw [List.getD_append _ _ _ _ hj, hexp, pow_succ]
    ring
  rw [polynomial, polynomial, List.length_append, List.length_singleton, Nat.add_sub_cancel, Finset.sum_range_succ,
    Finset.sum_congr rfl hbefore, ← Finset.mul_sum, hlast, Nat.sub_self, pow_zero, Nat.mul_one]

/-- The state of a hasher with evaluation point `c` that the words `ws` were written to since its NEW. -/
def hornerState (c : FieldElement) (ws : List (BitVec 64)) : FieldElement :=
  BitVec.ofNat 89 (polynomial c.toNat ws % Config.p89)

theorem hornerState_nil (c : FieldElement) : hornerState c [] = 0 := rfl

theorem hornerState_toNat (c : FieldElement) (ws : List (BitVec 64)) :
    (hornerState c ws).toNat = polynomial c.toNat ws % Config.p89 := by
  have hlt : polynomial c.toNat ws % Config.p89 < 2 ^ 89 := (Nat.mod_lt _ (by decide)).trans (by decide)
  rw [hornerState, BitVec.toNat_ofNat, Nat.mod_eq_of_lt hlt]

theorem phWrite_hornerState (c : FieldElement) (ws : List (BitVec 64)) (x : BitVec 64) :
    phWrite c (hornerState c ws) x = hornerState c (ws ++ [x]) := by
  apply BitVec.eq_of_toNat_eq
  rw [phWrite_toNat, hornerState_toNat, hornerState_toNat, polynomial_append_singleton]
  exact ((Nat.mod_modEq _ _).mul_left _).add_right _

/-- The hasher `i` is valid, with the given coefficients, and the words `ws` were written to it since its NEW. -/
def HasherHolds (i : Nat) (a b c : FieldElement) (ws : List (BitVec 64)) (s : State) : Prop :=
  s.ph[i]? = some ⟨true, a, b, c, hornerState c ws⟩

section
variable {i : Nat} {s : State}

theorem execPhNew_hasherHolds (hi : i < s.ph.length) {a b c : BitVec 96} (ha : a.toNat < Config.p89)
    (hb : b.toNat < Config.p89) (hc : c.toNat < Config.p89) :
    ∃ t, exec (.phNew i a b c) s = .next t ∧ HasherHolds i (storeElement a) (storeElement b) (storeElement c) [] t ∧
      t.responses = s.responses ++ [⟨0, []⟩] := by
  refine ⟨_, execPhNew_of_inDomain hi ha hb hc, ?_, rfl⟩
  rw [HasherHolds, hornerState_nil]
  exact List.getElem?_set_self hi

theorem execPhWrite_hasherHolds {a b c : FieldElement} {ws : List (BitVec 64)} (x : BitVec 64)
    (hs : HasherHolds i a b c ws s) :
    ∃ t, exec (.phWrite i x) s = .next t ∧ HasherHolds i a b c (ws ++ [x]) t ∧
      t.responses = s.responses ++ [⟨0, []⟩] := by
  obtain ⟨hi, -⟩ := List.getElem?_eq_some_iff.mp hs
  refine ⟨_, execPhWrite_of_valid hs rfl x, ?_, rfl⟩
  rw [phWrite_hornerState]
  exact List.getElem?_set_self hi

theorem execPhFinish_hasherHolds {a b c : FieldElement} {l : Nat} (hl : 1 ≤ l ∧ l ≤ 88) {ws : List (BitVec 64)}
    (hs : HasherHolds i a b c ws s) :
    ∃ t, exec (.phFinish i l) s = .next t ∧
      t.responses = s.responses ++ [⟨0, limbs 3 (phFinish a b (hornerState c ws) l)⟩] :=
  ⟨_, execPhFinish_of_valid hl hs rfl, rfl⟩

/-- A NEW and the writes of any words leave a hasher that holds the words. -/
theorem execAll_phNew_writes (hi : i < s.ph.length) {a b c : BitVec 96} (ha : a.toNat < Config.p89)
    (hb : b.toNat < Config.p89) (hc : c.toNat < Config.p89) (ws : List (BitVec 64)) :
    ∃ t, execAll (.phNew i a b c :: ws.map (.phWrite i)) s = .next t ∧
      HasherHolds i (storeElement a) (storeElement b) (storeElement c) ws t ∧
      t.responses = s.responses ++ List.replicate (ws.length + 1) ⟨0, []⟩ := by
  obtain ⟨u, hnew, hfresh, hresponses⟩ := execPhNew_hasherHolds hi ha hb hc
  obtain ⟨t, hwrites, hholds, hresponses'⟩ :=
    execAll_writes (fun _ x _ _ hs => execPhWrite_hasherHolds x hs) hfresh ws le_rfl
  refine ⟨t, (execAll_cons _ _ s t).mpr ⟨u, hnew, hwrites⟩, hholds, ?_⟩
  rw [hresponses', hresponses, List.append_assoc, List.singleton_append, ← List.replicate_succ]

end

/-- Settles O46: by the words the hasher holds after each write; a stored coefficient has the value of its operand. -/
theorem hornerClosedForm : Obligations.HornerClosedForm := by
  intro s i l a b c xs hi ha hb hc h1 h2
  have hstored {v : BitVec 96} (hv : v.toNat < Config.p89) : (storeElement v).toNat = v.toNat :=
    storeElement_toNat (isFieldElement_eq_true hv)
  have hstate := hornerState_toNat (storeElement c) xs
  rw [hstored hc] at hstate
  obtain ⟨t, hstream, hholds, hresponses⟩ := execAll_phNew_writes hi ha hb hc xs
  obtain ⟨u, hfinish, hresponses'⟩ := execPhFinish_hasherHolds ⟨h1, h2⟩ hholds
  refine ⟨t, u, hstream, ?_, hfinish, ?_⟩
  · rw [hholds, ← hstate]
    rfl
  · rw [hresponses', hresponses, phFinish, hstored ha, hstored hb, hstate]

end Sys2Proof.Machine
end

section
/-! The commands of the pipeline on a context that is there, and valid where it must be (45_preprocessing.md R231 to R236). -/

namespace Sys2Proof.Machine

/-- The combined word of a flush as a number (R233, R234). -/
theorem pack_fbDigest_toNat (f g : FilterBuffer) :
    (pack (fbDigest f 32) (fbDigest g 32)).toNat =
      (f.kb.toNat + f.sum.toNat) % 2 ^ 64 / 2 ^ 32 + 2 ^ 32 * ((g.kb.toNat + g.sum.toNat) % 2 ^ 64 / 2 ^ 32) := by
  rw [pack_toNat (fbDigest_lt f) (fbDigest_lt g), fbDigest_toNat, fbDigest_toNat]

theorem ppFlush_state (q : PpContext) : (ppFlush q).state =
    BitVec.ofNat 89 ((q.c.toNat * q.state.toNat + ((q.f0.kb.toNat + q.f0.sum.toNat) % 2 ^ 64 / 2 ^ 32 +
      2 ^ 32 * ((q.f1.kb.toNat + q.f1.sum.toNat) % 2 ^ 64 / 2 ^ 32))) % Config.p89) := by
  rw [← pack_fbDigest_toNat]; rfl

theorem ppFlush_state_toNat (q : PpContext) : (ppFlush q).state.toNat =
    (q.c.toNat * q.state.toNat + ((q.f0.kb.toNat + q.f0.sum.toNat) % 2 ^ 64 / 2 ^ 32 +
      2 ^ 32 * ((q.f1.kb.toNat + q.f1.sum.toNat) % 2 ^ 64 / 2 ^ 32))) % Config.p89 := by
  rw [← pack_fbDigest_toNat]; exact phWrite_toNat _ _ _

theorem ppBeforeFinish_of_empty {q : PpContext} (h : q.f0.cur = 0) : ppBeforeFinish q = q := if_neg (not_not.mpr h)

theorem ppBeforeFinish_of_buffered {q : PpContext} (h : q.f0.cur ≠ 0) : ppBeforeFinish q = ppFlush q := if_pos h

/-- Settles O47: a NEW in its domain writes the whole context, and a FINISH leaves the fresh one of an invariant pipeline. -/
theorem pipelineNewAndFinishAnswer : Obligations.PipelineNewAndFinishAnswer := by
  refine ⟨fun n a b c k0 kb0 k1 kb1 s hn ha hb hc => execPpNew_of_inDomain hn ha hb hc k0 kb0 k1 kb1,
    fun n l q s h1 h2 hq hv hok => ?_⟩
  rw [execPpFinish_of_valid ⟨h1, h2⟩ hq hv, ppBeforeFinish_eq_fresh ⟨hv, hok⟩, phFinish]
  by_cases hcur : q.f0.cur = 0
  · rw [if_pos hcur, ppBeforeFinish_of_empty hcur]; rfl
  · rw [if_neg hcur, ppBeforeFinish_of_buffered hcur, ppFlush_state_toNat]; rfl

/-- A filter buffer after the write of a word it has a slot for (R187). -/
def fbAccumulated (f : FilterBuffer) (x : BitVec 64) : FilterBuffer :=
  { f with
    sum := BitVec.ofNat 64 (f.sum.toNat +
      ((f.k[2 * f.cur]?.getD 0).toNat + x.toNat / 2 ^ 32) * ((f.k[2 * f.cur + 1]?.getD 0).toNat + x.toNat % 2 ^ 32))
    cur := f.cur + 1 }

theorem fbWrite_eq_accumulated {f : FilterBuffer} (h : f.cur < 32) (x : BitVec 64) :
    fbWrite f x = some (fbAccumulated f x) := by
  rw [fbWrite_some h, add_pairProduct_lanes, fbAccumulated, Vector.getElem?_eq_getElem (by omega),
    Vector.getElem?_eq_getElem (by omega)]
  rfl

theorem ppFeed_of_fbWrite {q : PpContext} {x : BitVec 64} {f0 f1 : FilterBuffer} (h0 : fbWrite q.f0 x = some f0)
    (h1 : fbWrite q.f1 x = some f1) : ppFeed q x = some { q with f0 := f0, f1 := f1 } := by
  rw [ppFeed, h0, h1]

theorem execPpWrite_of_ppFeed {s : State} {n : Nat} {q q' : PpContext} {x : BitVec 64} (hq : s.pp[n]? = some q)
    (hv : q.valid = true) (hfeed : ppFeed (ppBeforeWrite q) x = some q') :
    exec (.ppWrite n x) s = .next ((s.setPp n q').answering []) := by
  refine ((withContext_some hq s _).trans (checkValid_true hv s _)).trans ?_
  rw [hfeed]
  rfl

theorem ppBeforeWrite_of_full {q : PpContext} (h0 : q.f0.cur = 32) (h1 : q.f1.cur = 32) :
    ppBeforeWrite q = ppFlush q := by
  rw [ppBeforeWrite, (fbDone_iff _).mpr h0, (fbDone_iff _).mpr h1]; rfl

theorem ppBeforeWrite_of_not_full {q : PpContext} (h0 : q.f0.cur ≠ 32) : ppBeforeWrite q = q := by
  rw [ppBeforeWrite, Bool.eq_false_iff.mpr (mt (fbDone_iff _).mp h0)]; rfl

/-- Settles O48: the flush at capacity empties both buffers, so each of them has a slot for the word. -/
theorem pipelineWriteAnswers : Obligations.PipelineWriteAnswers := by
  intro n q x s hq hv hcur hle base0 base1 state' term
  obtain ⟨hbefore, h0, h1⟩ : ppBeforeWrite q = { q with state := state', f0 := base0, f1 := base1 } ∧
      base0.cur < 32 ∧ base1.cur < 32 := by
    by_cases hfull : q.f0.cur = 32
    · simp only [base0, base1, state', if_pos hfull]
      rw [ppBeforeWrite_of_full hfull (hcur.symm.trans hfull), ← ppFlush_state]
      exact ⟨rfl, Nat.zero_lt_succ 31, Nat.zero_lt_succ 31⟩
    · simp only [base0, base1, state', if_neg hfull]
      exact ⟨ppBeforeWrite_of_not_full hfull, by omega, by omega⟩
  refine execPpWrite_of_ppFeed hq hv ?_
  rw [hbefore]
  exact ppFeed_of_fbWrite (fbWrite_eq_accumulated h0 x) (fbWrite_eq_accumulated h1 x)

end Sys2Proof.Machine
end

section
/-! The blocks of R237: lists of 32 words, and a last one of 1 to 32. -/

namespace Sys2Proof

theorem blocksUpTo_succ (fuel : Nat) {ws : List (BitVec 64)} (h : ws ≠ []) :
    blocksUpTo (fuel + 1) ws = ws.take 32 :: blocksUpTo fuel (ws.drop 32) := by
  cases ws with
  | nil => exact absurd rfl h
  | cons w ws => rfl

theorem flatten_blocksUpTo {fuel : Nat} {ws : List (BitVec 64)} (h : ws.length ≤ fuel) :
    (blocksUpTo fuel ws).flatten = ws := by
  fun_induction blocksUpTo fuel ws with
  | case1 => rfl
  | case2 => cases h
  | case3 fuel w ws ih =>
    rw [List.flatten_cons, ih (by rw [List.length_drop]; omega), List.take_append_drop]

theorem length_blocksUpTo {fuel : Nat} {ws : List (BitVec 64)} (h : ws.length ≤ fuel) :
    (blocksUpTo fuel ws).length = (ws.length + 31) / 32 := by
  fun_induction blocksUpTo fuel ws with
  | case1 => rfl
  | case2 => cases h
  | case3 fuel w ws ih =>
    rw [List.length_cons, ih (by rw [List.length_drop]; omega), List.length_drop, List.length_cons]
    omega

/-- The words `ws` as a pipeline has them after their writes: the blocks `full` went to the hasher, the words `buf` are in the filters.
The flush being lazy (R232), `buf` is empty only where no word was written. -/
structure Buffered (ws : List (BitVec 64)) (full : List (List (BitVec 64))) (buf : List (BitVec 64)) : Prop where
  words : full.flatten ++ buf = ws
  length_full : ∀ block ∈ full, block.length = 32
  length_buf : buf.length ≤ 32
  full_nil : buf = [] → full = []

theorem buffered_nil : Buffered [] [] [] := ⟨rfl, nofun, Nat.zero_le _, fun _ => rfl⟩

section
variable {ws : List (BitVec 64)} {full : List (List (BitVec 64))} {buf : List (BitVec 64)} (h : Buffered ws full buf)
include h

theorem Buffered.append_of_lt (hlt : buf.length < 32) (x : BitVec 64) : Buffered (ws ++ [x]) full (buf ++ [x]) where
  words := by rw [← h.words, List.append_assoc]
  length_full := h.length_full
  length_buf := by rw [List.length_append, List.length_singleton]; exact hlt
  full_nil := fun hnil => absurd hnil (List.concat_ne_nil x buf)

theorem Buffered.append_of_full (hfull : buf.length = 32) (x : BitVec 64) : Buffered (ws ++ [x]) (full ++ [buf]) [x] where
  words := by rw [← h.words, List.flatten_concat]
  length_full := List.forall_mem_append.mpr ⟨h.length_full, List.forall_mem_singleton.mpr hfull⟩
  length_buf := Nat.succ_le_succ (Nat.zero_le 31)
  full_nil := nofun

end

/-! The blocks, cut from the front of the words. -/

theorem blocksUpTo_append {block : List (BitVec 64)} (h : block.length = 32) (rest : List (BitVec 64)) (fuel : Nat) :
    blocksUpTo (fuel + 1) (block ++ rest) = block :: blocksUpTo fuel rest := by
  have hne : block ++ rest ≠ [] := List.append_ne_nil_of_left_ne_nil (List.ne_nil_of_length_eq_add_one h) rest
  rw [blocksUpTo_succ fuel hne, List.take_left' h, List.drop_left' h]

theorem blocksUpTo_of_length_le {buf : List (BitVec 64)} (hne : buf ≠ []) (h : buf.length ≤ 32) (fuel : Nat) :
    blocksUpTo (fuel + 1) buf = [buf] := by
  rw [blocksUpTo_succ fuel hne, List.take_of_length_le h, List.drop_of_length_le h, blocksUpTo]

theorem blocksUpTo_flatten_append {full : List (List (BitVec 64))} (hfull : ∀ block ∈ full, block.length = 32)
    {buf : List (BitVec 64)} (hne : buf ≠ []) (hbuf : buf.length ≤ 32) {fuel : Nat} (hfuel : full.flatten.length ≤ fuel) :
    blocksUpTo (fuel + 1) (full.flatten ++ buf) = full ++ [buf] := by
  induction full generalizing fuel with
  | nil => exact blocksUpTo_of_length_le hne hbuf fuel
  | cons block full ih =>
    obtain ⟨hblock, hrest⟩ := List.forall_mem_cons.mp hfull
    rw [List.flatten_cons, List.length_append] at hfuel
    obtain ⟨fuel, rfl⟩ : ∃ k, fuel = k + 1 := ⟨fuel - 1, by omega⟩
    rw [List.flatten_cons, List.append_assoc, blocksUpTo_append hblock, ih hrest (by omega), List.cons_append]

theorem Buffered.blocks_eq {ws : List (BitVec 64)} {full : List (List (BitVec 64))} {buf : List (BitVec 64)}
    (h : Buffered ws full buf) (hne : buf ≠ []) : blocks ws = full ++ [buf] := by
  obtain ⟨rfl, hfull, hbuf, -⟩ := h
  have hpos : 0 < buf.length := List.length_pos_iff.mpr hne
  obtain ⟨fuel, hfuel⟩ : ∃ k, (full.flatten ++ buf).length = k + 1 :=
    Nat.exists_eq_add_one.mpr (by rw [List.length_append]; omega)
  rw [blocks, hfuel]
  rw [List.length_append] at hfuel
  exact blocksUpTo_flatten_append hfull hne hbuf (by omega)

end Sys2Proof
end

section
/-! R238: the pipeline is the polynomial hasher of the combined words. -/

namespace Sys2Proof.Machine

section
variable (a b c : FieldElement) (k0 : Keys) (kb0 : Key) (k1 : Keys) (kb1 : Key)

/-- The pipeline that took the combined words of the blocks `full` into its hasher and holds the words `buf` in its filters. -/
def ppHolding (full : List (List (BitVec 64))) (buf : List (BitVec 64)) : PpContext :=
  ⟨true, a, b, c, hornerState c (full.map (combinedWord k0 kb0 k1 kb1)), fbHolding k0 kb0 buf, fbHolding k1 kb1 buf⟩

/-- The pipeline `n` is valid, with the given coefficients and keys, and the words `ws` were written to it since its NEW. -/
def PipelineHolds (n : Nat) (ws : List (BitVec 64)) (s : State) : Prop :=
  ∃ full buf, Buffered ws full buf ∧ s.pp[n]? = some (ppHolding a b c k0 kb0 k1 kb1 full buf)

end

section
variable {a b c : FieldElement} {k0 : Keys} {kb0 : Key} {k1 : Keys} {kb1 : Key} {full : List (List (BitVec 64))}
  {buf ws : List (BitVec 64)}

theorem pack_fbDigest_fbHolding (k0 : Keys) (kb0 : Key) (k1 : Keys) (kb1 : Key) (block : List (BitVec 64)) :
    pack (fbDigest (fbHolding k0 kb0 block) 32) (fbDigest (fbHolding k1 kb1 block) 32) =
      combinedWord k0 kb0 k1 kb1 block := by
  rw [combinedWord, ← fbDigest_fbHolding, ← fbDigest_fbHolding, ← pack_toNat (fbDigest_lt _) (fbDigest_lt _),
    BitVec.ofNat_toNat, BitVec.setWidth_eq]

/-- A flush makes a block of the words buffered. -/
theorem ppFlush_ppHolding :
    ppFlush (ppHolding a b c k0 kb0 k1 kb1 full buf) = ppHolding a b c k0 kb0 k1 kb1 (full ++ [buf]) [] := by
  have hstate : phWrite c (hornerState c (full.map (combinedWord k0 kb0 k1 kb1)))
      (pack (fbDigest (fbHolding k0 kb0 buf) 32) (fbDigest (fbHolding k1 kb1 buf) 32)) =
        hornerState c ((full ++ [buf]).map (combinedWord k0 kb0 k1 kb1)) := by
    rw [pack_fbDigest_fbHolding, phWrite_hornerState, List.map_append, List.map_singleton]
  conv_rhs => rw [ppHolding, ← hstate]
  rfl

theorem ppFeed_ppHolding (h : buf.length < 32) (x : BitVec 64) :
    ppFeed (ppHolding a b c k0 kb0 k1 kb1 full buf) x = some (ppHolding a b c k0 kb0 k1 kb1 full (buf ++ [x])) :=
  ppFeed_of_fbWrite (fbWrite_fbHolding k0 kb0 x h) (fbWrite_fbHolding k1 kb1 x h)

/-- A write to a pipeline that holds `ws` leaves one that holds `ws` and its word: below capacity the word joins those buffered, at
capacity these become a block and the word begins the next. -/
theorem ppFeed_ppBeforeWrite_ppHolding (h : Buffered ws full buf) (x : BitVec 64) :
    ∃ full' buf', Buffered (ws ++ [x]) full' buf' ∧
      ppFeed (ppBeforeWrite (ppHolding a b c k0 kb0 k1 kb1 full buf)) x =
        some (ppHolding a b c k0 kb0 k1 kb1 full' buf') := by
  obtain hlt | hfull := Nat.lt_or_eq_of_le h.length_buf
  · refine ⟨full, buf ++ [x], h.append_of_lt hlt x, ?_⟩
    rw [ppBeforeWrite_of_not_full (q := ppHolding ..) hlt.ne]
    exact ppFeed_ppHolding hlt x
  · refine ⟨full ++ [buf], [x], h.append_of_full hfull x, ?_⟩
    rw [ppBeforeWrite_of_full (q := ppHolding ..) hfull hfull, ppFlush_ppHolding]
    exact ppFeed_ppHolding (buf := []) (Nat.zero_lt_succ 31) x

/-- What a FINISH hands to the hasher's finish: the state after the combined word of every block. -/
theorem ppBeforeFinish_ppHolding_state (h : Buffered ws full buf) :
    (ppBeforeFinish (ppHolding a b c k0 kb0 k1 kb1 full buf)).state =
      hornerState c ((blocks ws).map (combinedWord k0 kb0 k1 kb1)) := by
  by_cases hbuf : buf = []
  · obtain rfl : full = [] := h.full_nil hbuf
    obtain rfl : buf = ws := h.words
    subst hbuf
    rfl
  · have hcur : (ppHolding a b c k0 kb0 k1 kb1 full buf).f0.cur ≠ 0 := mt List.length_eq_zero_iff.mp hbuf
    rw [ppBeforeFinish_of_buffered hcur, ppFlush_ppHolding, h.blocks_eq hbuf]
    rfl

variable {n : Nat} {s : State}

theorem execPpNew_pipelineHolds (hn : n < s.pp.length) {a b c : BitVec 96} (ha : a.toNat < Config.p89)
    (hb : b.toNat < Config.p89) (hc : c.toNat < Config.p89) :
    ∃ t, exec (.ppNew n a b c k0 kb0 k1 kb1) s = .next t ∧
      PipelineHolds (storeElement a) (storeElement b) (storeElement c) k0 kb0 k1 kb1 n [] t :=
  ⟨_, execPpNew_of_inDomain hn ha hb hc k0 kb0 k1 kb1, [], [], buffered_nil, List.getElem?_set_self hn⟩

theorem execPpWrite_pipelineHolds (x : BitVec 64) (hs : PipelineHolds a b c k0 kb0 k1 kb1 n ws s) :
    ∃ t, exec (.ppWrite n x) s = .next t ∧ PipelineHolds a b c k0 kb0 k1 kb1 n (ws ++ [x]) t ∧
      t.responses = s.responses ++ [⟨0, []⟩] := by
  obtain ⟨full, buf, hbuffered, hq⟩ := hs
  obtain ⟨hn, -⟩ := List.getElem?_eq_some_iff.mp hq
  obtain ⟨full', buf', hbuffered', hfeed⟩ := ppFeed_ppBeforeWrite_ppHolding hbuffered x
  exact ⟨_, execPpWrite_of_ppFeed hq rfl hfeed, ⟨full', buf', hbuffered', List.getElem?_set_self hn⟩, rfl⟩

theorem execPpFinish_pipelineHolds {l : Nat} (hl : 1 ≤ l ∧ l ≤ 88) (hs : PipelineHolds a b c k0 kb0 k1 kb1 n ws s) :
    ∃ t, exec (.ppFinish n l) s = .next t ∧ t.responses = s.responses ++
      [⟨0, limbs 3 (phFinish a b (hornerState c ((blocks ws).map (combinedWord k0 kb0 k1 kb1))) l)⟩] := by
  obtain ⟨full, buf, hbuffered, hq⟩ := hs
  refine ⟨_, execPpFinish_of_valid hl hq rfl, ?_⟩
  rw [← ppBeforeFinish_ppHolding_state hbuffered]
  rfl

/-- The digest of a stream through the pipeline, from its NEW to its FINISH. -/
theorem execAll_pipelineStream (hn : n < s.pp.length) {a b c : BitVec 96} (ha : a.toNat < Config.p89)
    (hb : b.toNat < Config.p89) (hc : c.toNat < Config.p89) {l : Nat} (hl : 1 ≤ l ∧ l ≤ 88) (ws : List (BitVec 64)) :
    ∃ t, execAll (.ppNew n a b c k0 kb0 k1 kb1 :: ws.map (.ppWrite n) ++ [.ppFinish n l]) s = .next t ∧
      t.responses.getLast? = some ⟨0, limbs 3 (phFinish (storeElement a) (storeElement b)
        (hornerState (storeElement c) ((blocks ws).map (combinedWord k0 kb0 k1 kb1))) l)⟩ := by
  obtain ⟨u, hnew, hu⟩ := execPpNew_pipelineHolds hn ha hb hc
  obtain ⟨v, hwrites, hv, -⟩ := execAll_writes (fun _ x _ _ hs => execPpWrite_pipelineHolds x hs) hu ws le_rfl
  obtain ⟨t, hfinish, hresponses⟩ := execPpFinish_pipelineHolds hl hv
  have hstream : execAll (.ppNew n a b c k0 kb0 k1 kb1 :: ws.map (.ppWrite n)) s = .next v :=
    (execAll_cons _ _ s v).mpr ⟨u, hnew, hwrites⟩
  exact ⟨t, (execAll_append hstream).trans (execAll_singleton hfinish), by rw [hresponses, List.getLast?_concat]⟩

end

/-- The digest of a stream through the stand-alone hasher, from its NEW to its FINISH. -/
theorem execAll_hasherStream {s : State} {i : Nat} (hi : i < s.ph.length) {a b c : BitVec 96} (ha : a.toNat < Config.p89)
    (hb : b.toNat < Config.p89) (hc : c.toNat < Config.p89) {l : Nat} (hl : 1 ≤ l ∧ l ≤ 88) (ws : List (BitVec 64)) :
    ∃ t, execAll (.phNew i a b c :: ws.map (.phWrite i) ++ [.phFinish i l]) s = .next t ∧
      t.responses.getLast? = some ⟨0, limbs 3 (phFinish (storeElement a) (storeElement b)
        (hornerState (storeElement c) ws) l)⟩ := by
  obtain ⟨u, hstream, hholds, -⟩ := execAll_phNew_writes hi ha hb hc ws
  obtain ⟨t, hfinish, hresponses⟩ := execPhFinish_hasherHolds hl hholds
  exact ⟨t, (execAll_append hstream).trans (execAll_singleton hfinish), by rw [hresponses, List.getLast?_concat]⟩

/-- Settles O49: both digests are the finish of the hasher's state after the combined words of the blocks. -/
theorem pipelineIsHasherOfCombinedWords : Obligations.PipelineIsHasherOfCombinedWords := by
  intro s n i l a b c k0 kb0 k1 kb1 xs hn hi ha hb hc h1 h2
  obtain ⟨t, ht, hlast⟩ := execAll_pipelineStream hn ha hb hc ⟨h1, h2⟩ xs
  obtain ⟨u, hu, hlast'⟩ := execAll_hasherStream hi ha hb hc ⟨h1, h2⟩ ((blocks xs).map (combinedWord k0 kb0 k1 kb1))
  rw [List.map_map] at hu
  exact ⟨length_blocksUpTo le_rfl, flatten_blocksUpTo le_rfl, t, u, _, ht, hu, hlast, hlast'⟩

end Sys2Proof.Machine
end

section
/-! The command STATUS (46_system.md R250): the register as a number (10_state.md R39), and that a command which succeeds leaves it, so that
it names the last failure through any number of successes. -/

namespace Sys2Proof.Machine

/-- The number of the register by its fields (R39): ERR in bit 0, ERRCODE in bits 7:4. -/
theorem Status.toNat_word (st : Status) : st.word.toNat = 16 * st.errCode.toNat + if st.err = true then 1 else 0 := by
  have herr : (BitVec.ofBool st.err).toNat = if st.err = true then 1 else 0 := by cases st.err <;> rfl
  simp only [Status.word, BitVec.toNat_append]
  rw [← Nat.shiftLeft_add_eq_or_of_lt (BitVec.ofBool st.err).isLt, ← Nat.shiftLeft_add_eq_or_of_lt (0#3).isLt,
    ← Nat.shiftLeft_add_eq_or_of_lt st.errCode.isLt, herr]
  simp only [Nat.shiftLeft_eq, BitVec.toNat_zero]
  ring

theorem Status.word_eq (st : Status) : st.word = BitVec.ofNat 32 (16 * st.errCode.toNat + if st.err = true then 1 else 0) := by
  rw [← st.toNat_word, BitVec.ofNat_toNat, BitVec.setWidth_eq]

/-- Settles O19: the answer is the register's word, and a response is all that STATUS adds to the state. -/
theorem statusReturnsRegister : Obligations.StatusReturnsRegister := fun s =>
  congrArg (fun w => reply [w] s) s.status.word_eq

/-- No exception has the status word of a success (R89, R261). -/
theorem failureStatus_ne_zero (e : DomainError) : BitVec.ofNat 32 (errorCode e).toNat ≠ 0 := by
  cases e <;> decide

/-- A command that answers gives one response, and leaves STATUS alone when that response reports success: the one effect that writes
STATUS is a failure, whose response carries its code. -/
theorem exec_status_of_success {i : Instr} {s t : State} (h : exec i s = .next t) :
    ∃ r, t.responses = s.responses ++ [r] ∧ (r.status = 0 → t.status = s.status) := by
  obtain ⟨e, -, hs, -⟩ := exec_next_effect h
  cases e with
  | stop r => cases hs
  | fail e => cases hs; exact ⟨_, rfl, fun h0 => absurd h0 (failureStatus_ne_zero e)⟩
  | answer | writePh | writePf | writePp => cases hs; exact ⟨_, rfl, fun _ => rfl⟩

/-- A sequence of commands leaves STATUS alone when every response it gives reports success. -/
theorem execAll_status_of_successes {is : List Instr} {s t : State} (h : execAll is s = .next t) :
    ∃ rs, t.responses = s.responses ++ rs ∧ ((∀ r ∈ rs, r.status = 0) → t.status = s.status) := by
  induction is generalizing s with
  | nil => cases h; exact ⟨[], (List.append_nil _).symm, fun _ => rfl⟩
  | cons i is ih =>
    obtain ⟨u, hu, hrest⟩ := (execAll_cons i is s t).mp h
    obtain ⟨r, hr, hstatus⟩ := exec_status_of_success hu
    obtain ⟨rs, hrs, hstatuses⟩ := ih hrest
    refine ⟨r :: rs, by rw [hrs, hr, List.append_assoc, List.singleton_append], fun hall => ?_⟩
    obtain ⟨hhead, htail⟩ := List.forall_mem_cons.mp hall
    exact (hstatuses htail).trans (hstatus hhead)

/-- Settles O20: the successes leave what the failure wrote to STATUS, and a code of R261 fits the four bits of ERRCODE. -/
theorem statusKeepsLastFailure : Obligations.StatusKeepsLastFailure := by
  intro s t e is _ he h hsuccess
  obtain ⟨rs, hrs, hstatuses⟩ := execAll_status_of_successes h
  rw [hrs, List.drop_left] at hsuccess
  have hstatus : t.status = ⟨true, BitVec.ofNat 4 e⟩ := hstatuses hsuccess
  have hcode : (BitVec.ofNat 4 e).toNat = e := Nat.mod_eq_of_lt (by omega)
  rw [statusReturnsRegister t, hstatus, hcode, if_pos rfl]

end Sys2Proof.Machine
end

section
/-! The exceptions that a decoded command can raise (R264 to R269): the cause of each, the one check that a command makes for it, and that
a command which answers has failed for the cause of its code or has succeeded. -/

namespace Sys2Proof.Machine

/-- What each exception is raised for (R265 to R269). The decoder's two are raised by no command (R262, R263). -/
def Cause (i : Instr) (s : State) : DomainError → Prop
  | .illegal | .length => False
  | .width => ∃ l, i.widthOperand = some l ∧ (l = 0 ∨ i.maxWidth < l)
  | .ctx => ∃ n, i.context = some n ∧ ¬ ContextExists s n
  | .invalid => ∃ n, i.isNew = false ∧ i.context = some n ∧ ContextInvalid s n
  | .domain => i.inDomain = false
  | .full => ∃ j x f, i = .pfWrite j x ∧ s.pf[j]? = some f ∧ f.valid = true ∧ f.buf.cur = 32

/-- The state `t` shows a failure of the command `i` on `s` for its cause, or a response with the result limbs of `i`. -/
def Accounted (i : Instr) (s t : State) : Prop :=
  (∃ e, Cause i s e ∧ t = s.failing (errorCode e).toNat) ∨
    ∃ ws, ws.length = i.resultLimbs ∧ t.responses = s.responses ++ [⟨0, ws⟩]

/-! The domains of R268 are those that the commands check. -/

theorem inDomain_red6a3 (wide : BitVec 192) (extra : BitVec 96) :
    (Instr.red6a3 wide extra).inDomain = reduceDomain wide extra := Bool.decide_and _ _

theorem inDomain_mmp31 (l : Nat) (a b x : BitVec 32) : (Instr.mmp31 l a b x).inDomain =
    (a.toNat < Config.p31 && b.toNat < Config.p31 && x.toNat < Config.p31) := by
  simp only [Instr.inDomain, Bool.decide_and, Bool.and_assoc]

theorem inDomain_mmp61 (l : Nat) (a b x : BitVec 64) : (Instr.mmp61 l a b x).inDomain =
    (a.toNat < Config.p61 && b.toNat < Config.p61 && x.toNat < Config.p61) := by
  simp only [Instr.inDomain, Bool.decide_and, Bool.and_assoc]

theorem inDomain_mmp89 (l : Nat) (a b : BitVec 96) (x : BitVec 64) :
    (Instr.mmp89 l a b x).inDomain = (isFieldElement a && isFieldElement b) := Bool.decide_and _ _

theorem inDomain_mmp31x3 (l : Nat) (a0 b0 a1 b1 a2 b2 : BitVec 32) (x : BitVec 64) :
    (Instr.mmp31x3 l a0 b0 a1 b1 a2 b2 x).inDomain = [a0, b0, a1, b1, a2, b2].all fun v => v.toNat < Config.p31 := by
  simp only [Instr.inDomain, Bool.decide_and, List.all_cons, List.all_nil, Bool.and_true]

theorem inDomain_phNew (ctx : Nat) (a b c : BitVec 96) :
    (Instr.phNew ctx a b c).inDomain = (isFieldElement a && isFieldElement b && isFieldElement c) := by
  simp only [Instr.inDomain, Bool.decide_and, isFieldElement, Bool.and_assoc]

theorem inDomain_ppNew (ctx : Nat) (a b c : BitVec 96) (k0 : Keys) (kb0 : Key) (k1 : Keys) (kb1 : Key) :
    (Instr.ppNew ctx a b c k0 kb0 k1 kb1).inDomain = (isFieldElement a && isFieldElement b && isFieldElement c) :=
  inDomain_phNew ctx a b c

/-! Each check fails for its cause only. -/

section
variable {i : Instr} {s : State}

theorem accounted_raise {e : DomainError} (h : Cause i s e) : (raise e s).Ensures (Accounted i s) := by
  rw [raise_eq]; exact ensures_next (.inl ⟨e, h, rfl⟩)

/-- A success from a state that has the responses of `s`. -/
theorem accounted_reply {u : State} {ws : List Word} (hlen : ws.length = i.resultLimbs) (hu : u.responses = s.responses) :
    (reply ws u).Ensures (Accounted i s) :=
  ensures_reply ws (.inr ⟨ws, hlen, by rw [State.answering_responses, hu]⟩)

theorem accounted_replyValue {u : State} {n v : Nat} (hn : n = i.resultLimbs) (hu : u.responses = s.responses) :
    (replyValue n v u).Ensures (Accounted i s) :=
  accounted_reply ((limbs_length n v).trans hn) hu

theorem accounted_checkWidth {m l : Nat} {go : Result} (hl : i.widthOperand = some l) (hm : i.maxWidth = m)
    (hgo : go.Ensures (Accounted i s)) : (checkWidth m l s go).Ensures (Accounted i s) := by
  intro t h
  obtain ⟨hillegal, rfl⟩ | ⟨-, h⟩ := checkWidth_next h
  · exact .inl ⟨.width, ⟨l, hl, hm ▸ hillegal⟩, rfl⟩
  · exact hgo t h

theorem accounted_checkDomain {b : Bool} {go : Result} (hb : i.inDomain = b) (hgo : go.Ensures (Accounted i s)) :
    (checkDomain b s go).Ensures (Accounted i s) := by
  intro t h
  obtain ⟨hfalse, rfl⟩ | ⟨-, h⟩ := checkDomain_next h
  · exact .inl ⟨.domain, hb.trans hfalse, rfl⟩
  · exact hgo t h

section
variable {γ : Type} {file : List γ} {ctx : Nat} {n : ContextName} (hn : i.context = some n)
  (habsent : file.length ≤ ctx → ¬ ContextExists s n)
include hn habsent

theorem accounted_withContext {go : γ → Result} (hgo : ∀ c, file[ctx]? = some c → (go c).Ensures (Accounted i s)) :
    (withContext file ctx s go).Ensures (Accounted i s) := by
  intro t h
  obtain ⟨hctx, rfl⟩ | ⟨c, hc, h⟩ := withContext_next h
  · exact .inl ⟨.ctx, ⟨n, hn, habsent hctx⟩, rfl⟩
  · exact hgo c hc t h

/-- The two checks on the context of a WRITE, an ISDONE or a FINISH. -/
theorem accounted_withValid {valid : γ → Bool} {go : γ → Result} (hnew : i.isNew = false)
    (hinvalid : ∀ c, file[ctx]? = some c → valid c = false → ContextInvalid s n)
    (hgo : ∀ c, file[ctx]? = some c → valid c = true → (go c).Ensures (Accounted i s)) :
    (withContext file ctx s fun c => checkValid (valid c) s (go c)).Ensures (Accounted i s) := by
  refine accounted_withContext hn habsent fun c hc t h => ?_
  obtain ⟨hfalse, rfl⟩ | ⟨htrue, h⟩ := checkValid_next h
  · exact .inl ⟨.invalid, ⟨n, hnew, hn, hinvalid c hc hfalse⟩, rfl⟩
  · exact hgo c hc htrue t h

end

section
variable {ctx : Nat}

theorem accounted_withPh (hn : i.context = some (.ph ctx)) (hnew : i.isNew = false) {go : PhContext → Result}
    (hgo : ∀ c, (go c).Ensures (Accounted i s)) :
    (withContext s.ph ctx s fun c => checkValid c.valid s (go c)).Ensures (Accounted i s) :=
  accounted_withValid hn Nat.not_lt.mpr hnew (fun c hc hv => ⟨c, hc, hv⟩) fun c _ _ => hgo c

theorem accounted_withPf (hn : i.context = some (.pf ctx)) (hnew : i.isNew = false) {go : PfContext → Result}
    (hgo : ∀ f, s.pf[ctx]? = some f → f.valid = true → (go f).Ensures (Accounted i s)) :
    (withContext s.pf ctx s fun f => checkValid f.valid s (go f)).Ensures (Accounted i s) :=
  accounted_withValid hn Nat.not_lt.mpr hnew (fun f hf hv => ⟨f, hf, hv⟩) hgo

theorem accounted_withPp (hn : i.context = some (.pp ctx)) (hnew : i.isNew = false) {go : PpContext → Result}
    (hgo : ∀ q, (go q).Ensures (Accounted i s)) :
    (withContext s.pp ctx s fun q => checkValid q.valid s (go q)).Ensures (Accounted i s) :=
  accounted_withValid hn Nat.not_lt.mpr hnew (fun q hq hv => ⟨q, hq, hv⟩) fun q _ _ => hgo q

end

end

theorem execPfWrite_accounted (ctx : Nat) (x : BitVec 64) (s : State) :
    (execPfWrite ctx x s).Ensures (Accounted (.pfWrite ctx x) s) := by
  refine accounted_withPf rfl rfl fun f hf hv => ?_
  split
  next hdone => exact accounted_raise ⟨ctx, x, f, rfl, hf, hv, (fbDone_iff f.buf).mp hdone⟩
  next =>
    split
    next => exact accounted_reply rfl rfl
    next => exact ensures_fault _

theorem execPpWrite_accounted (ctx : Nat) (x : BitVec 64) (s : State) :
    (execPpWrite ctx x s).Ensures (Accounted (.ppWrite ctx x) s) := by
  refine accounted_withPp rfl rfl fun q => ?_
  split
  next => exact accounted_reply rfl rfl
  next => exact ensures_fault _

/-- Every command that answers has failed for the cause of its code, or has given the result limbs of its row (R89, R270). -/
theorem exec_accounted (i : Instr) (s : State) : Result.Ensures (exec i s) (Accounted i s) := by
  cases i with
  | status => exact accounted_reply rfl rfl
  | mul3x1 | mul3x1a3 | mul3x2 | muladd | mul3x3 => exact accounted_reply rfl rfl
  | red6a3 w e => exact accounted_checkDomain (inDomain_red6a3 w e) (accounted_reply (length_reduce6Add3 rfl) rfl)
  | mod5 | ms32 | ms64 | ms128 | mss32 | mss64 | mss128 | vdot | vdotp =>
    exact accounted_checkWidth rfl rfl (accounted_replyValue rfl rfl)
  | mmp31 l a b x =>
    exact accounted_checkWidth rfl rfl (accounted_checkDomain (inDomain_mmp31 l a b x) (accounted_replyValue rfl rfl))
  | mmp61 l a b x =>
    exact accounted_checkWidth rfl rfl (accounted_checkDomain (inDomain_mmp61 l a b x) (accounted_replyValue rfl rfl))
  | mmp89 l a b x =>
    exact accounted_checkWidth rfl rfl (accounted_checkDomain (inDomain_mmp89 l a b x) (accounted_replyValue rfl rfl))
  | mmp31x3 l a0 b0 a1 b1 a2 b2 x =>
    exact accounted_checkWidth rfl rfl
      (accounted_checkDomain (inDomain_mmp31x3 l a0 b0 a1 b1 a2 b2 x) (accounted_replyValue rfl rfl))
  | pfNew => exact accounted_withContext rfl Nat.not_lt.mpr fun _ _ => accounted_reply rfl rfl
  | phNew ctx a b c =>
    exact accounted_withContext rfl Nat.not_lt.mpr fun _ _ =>
      accounted_checkDomain (inDomain_phNew ctx a b c) (accounted_reply rfl rfl)
  | ppNew ctx a b c k0 kb0 k1 kb1 =>
    exact accounted_withContext rfl Nat.not_lt.mpr fun _ _ =>
      accounted_checkDomain (inDomain_ppNew ctx a b c k0 kb0 k1 kb1) (accounted_reply rfl rfl)
  | pfWrite ctx x => exact execPfWrite_accounted ctx x s
  | ppWrite ctx x => exact execPpWrite_accounted ctx x s
  | phWrite => exact accounted_withPh rfl rfl fun _ => accounted_reply rfl rfl
  | pfIsdone => exact accounted_withPf rfl rfl fun _ _ _ => accounted_replyValue rfl rfl
  | pfFinish =>
    exact accounted_checkWidth rfl rfl (accounted_withPf rfl rfl fun _ _ _ => accounted_replyValue rfl rfl)
  | phFinish => exact accounted_checkWidth rfl rfl (accounted_withPh rfl rfl fun _ => accounted_replyValue rfl rfl)
  | ppFinish => exact accounted_checkWidth rfl rfl (accounted_withPp rfl rfl fun _ => accounted_replyValue rfl rfl)

/-- R261 gives every exception a code of its own. -/
theorem errorCode_injective : Function.Injective errorCode := by
  intro e e' h
  cases e <;> cases e' <;> cases h <;> rfl

theorem failing_errorCode_injective (s : State) : Function.Injective fun e => s.failing (errorCode e).toNat := by
  intro e e' h
  have hcode : BitVec.ofNat 4 (errorCode e).toNat = BitVec.ofNat 4 (errorCode e').toNat :=
    congrArg (fun t : State => t.status.errCode) h
  rw [BitVec.ofNat_toNat, BitVec.ofNat_toNat, BitVec.setWidth_eq, BitVec.setWidth_eq] at hcode
  exact errorCode_injective hcode

/-- A command fails with the code of an exception for that exception's cause only. -/
theorem cause_of_exec_failing {i : Instr} {s : State} (e : DomainError)
    (h : exec i s = .next (s.failing (errorCode e).toNat)) : Cause i s e := by
  obtain ⟨e', hcause, hfail⟩ | ⟨ws, -, hresponses⟩ := exec_accounted i s _ h
  · rwa [failing_errorCode_injective s hfail]
  · rw [State.failing_responses, List.append_cancel_left_eq, List.singleton_inj] at hresponses
    exact absurd (congrArg Response.status hresponses) (failureStatus_ne_zero e)

/-- The codes of the exceptions that have a cause in a command (R261). -/
theorem Cause.errorCode_bounds {i : Instr} {s : State} {e : DomainError} (h : Cause i s e) :
    3 ≤ (errorCode e).toNat ∧ (errorCode e).toNat ≤ 7 := by
  cases e with
  | illegal | length => cases h
  | width | ctx | invalid | domain | full => decide

/-- Settles O13: a success leaves STATUS alone, and nothing a command does reaches the port. -/
theorem commandSucceedsOrOnlyFails : Obligations.CommandSucceedsOrOnlyFails := by
  intro i s t h
  obtain ⟨e, hcause, hfail⟩ | ⟨ws, hlen, hresponses⟩ := exec_accounted i s t h
  · obtain ⟨hlow, hhigh⟩ := hcause.errorCode_bounds
    exact .inl ⟨_, hlow, hhigh, hfail⟩
  · obtain ⟨r, hr, hstatus⟩ := exec_status_of_success h
    obtain ⟨hport, -⟩ := exec_next_port_responses h
    obtain rfl := List.singleton_inj.mp (List.append_cancel_left (hr.symm.trans hresponses))
    exact .inr ⟨ws, hlen, hresponses, hstatus rfl, hport⟩

end Sys2Proof.Machine
end

section
/-! Each exception is raised where its cause is there and no check before it fails (R264): so for its cause, and for nothing else. -/

namespace Sys2Proof.Machine

section
variable {i : Instr} {s : State}

/-- The check of L is the first of every command that uses L. -/
theorem exec_of_width_illegal {l : Nat} (hi : i.widthOperand = some l) (hl : l = 0 ∨ i.maxWidth < l) :
    exec i s = .next (s.failing 3) := by
  cases i with cases hi
  | mod5 | mmp31 | mmp61 | mmp89 | mmp31x3 | ms32 | ms64 | ms128 | mss32 | mss64 | mss128 | vdot | vdotp | pfFinish
  | phFinish | ppFinish => exact checkWidth_illegal hl s _

variable (hl : i.WidthLegal)
include hl

section
variable {n : ContextName} (hi : i.context = some n)
include hi

theorem exec_of_context_absent (hn : ¬ ContextExists s n) : exec i s = .next (s.failing 4) := by
  cases i with cases hi
  | pfNew | pfWrite | pfIsdone | phNew | phWrite | ppNew | ppWrite => exact withContext_none (Nat.not_lt.mp hn) s _
  | pfFinish | phFinish | ppFinish =>
    exact (checkWidth_legal (hl _ rfl) s _).trans (withContext_none (Nat.not_lt.mp hn) s _)

theorem exec_of_context_invalid (hnew : i.isNew = false) (hn : ContextInvalid s n) : exec i s = .next (s.failing 5) := by
  cases i with cases hi
  | pfNew | phNew | ppNew => cases hnew
  | pfWrite | pfIsdone | phWrite | ppWrite =>
    obtain ⟨c, hc, hv⟩ := hn
    exact (withContext_some hc s _).trans (checkValid_false hv s _)
  | pfFinish | phFinish | ppFinish =>
    obtain ⟨c, hc, hv⟩ := hn
    exact (checkWidth_legal (hl _ rfl) s _).trans ((withContext_some hc s _).trans (checkValid_false hv s _))

end

theorem exec_of_outside_domain (hctx : ∀ n, i.context = some n → ContextExists s n) (hd : i.inDomain = false) :
    exec i s = .next (s.failing 6) := by
  cases i with
  | red6a3 w e => exact checkDomain_false ((inDomain_red6a3 w e).symm.trans hd) s _
  | mmp31 l a b x =>
    exact (checkWidth_legal (hl _ rfl) s _).trans (checkDomain_false ((inDomain_mmp31 l a b x).symm.trans hd) s _)
  | mmp61 l a b x =>
    exact (checkWidth_legal (hl _ rfl) s _).trans (checkDomain_false ((inDomain_mmp61 l a b x).symm.trans hd) s _)
  | mmp89 l a b x =>
    exact (checkWidth_legal (hl _ rfl) s _).trans (checkDomain_false ((inDomain_mmp89 l a b x).symm.trans hd) s _)
  | mmp31x3 l a0 b0 a1 b1 a2 b2 x =>
    exact (checkWidth_legal (hl _ rfl) s _).trans
      (checkDomain_false ((inDomain_mmp31x3 l a0 b0 a1 b1 a2 b2 x).symm.trans hd) s _)
  | phNew ctx a b c =>
    exact (withContext_some (List.getElem?_eq_getElem (hctx _ rfl)) s _).trans
      (checkDomain_false ((inDomain_phNew ctx a b c).symm.trans hd) s _)
  | ppNew ctx a b c k0 kb0 k1 kb1 =>
    exact (withContext_some (List.getElem?_eq_getElem (hctx _ rfl)) s _).trans
      (checkDomain_false ((inDomain_ppNew ctx a b c k0 kb0 k1 kb1).symm.trans hd) s _)
  | _ => cases hd

end

theorem execPfWrite_of_full {s : State} {j : Nat} {f : PfContext} (hf : s.pf[j]? = some f) (hv : f.valid = true)
    (hcur : f.buf.cur = 32) (x : BitVec 64) : exec (.pfWrite j x) s = .next (s.failing 7) :=
  (withContext_some hf s _).trans ((checkValid_true hv s _).trans
    ((if_pos ((fbDone_iff f.buf).mpr hcur)).trans (raise_eq .full s)))

/-- Settles O14: the check of L comes first, and the code 3 is its own. -/
theorem illegalWidthRaisesWidth : Obligations.IllegalWidthRaisesWidth :=
  ⟨fun _ _ _ hi hl => exec_of_width_illegal hi hl, fun _ _ h => cause_of_exec_failing .width h⟩

/-- Settles O15: only the check of L comes before that of CTX. -/
theorem contextOutOfRangeRaisesCtx : Obligations.ContextOutOfRangeRaisesCtx :=
  ⟨fun _ _ _ hl hi hn => exec_of_context_absent hl hi hn, fun _ _ h => cause_of_exec_failing .ctx h⟩

/-- Settles O17: no command with a domain to check asks for VALID, so the checks before it are those of L and CTX. -/
theorem operandOutsideDomainRaisesDomain : Obligations.OperandOutsideDomainRaisesDomain :=
  ⟨fun _ _ hl hctx hd => exec_of_outside_domain hl hctx hd,
    fun _ _ hd h => Bool.noConfusion (hd.symm.trans (cause_of_exec_failing .domain h))⟩

/-- Settles O18: of all causes only this one is a full filter, and it names PF.WRITE. -/
theorem fullFilterRefusesWrite : Obligations.FullFilterRefusesWrite :=
  ⟨fun _ _ _ x hf hv hcur => execPfWrite_of_full hf hv hcur x, fun _ _ h => cause_of_exec_failing .full h⟩

/-! A context that is not valid stays so until a NEW names it (R267). -/

theorem contextInvalid_of_sameContext {s t : State} {n : ContextName} (h : SameContext s t n) (hs : ContextInvalid s n) :
    ContextInvalid t n := by
  cases n with
  | ph | pf | pp => obtain ⟨c, hc, hv⟩ := hs; exact ⟨c, h.symm.trans hc, hv⟩

/-- A context of a file is invalid exactly when the file's VALID bits show it. -/
theorem exists_valid_eq_false_iff {γ : Type} {valid : γ → Bool} {file : List γ} {n : Nat} :
    (∃ c, file[n]? = some c ∧ valid c = false) ↔ (file.map valid)[n]? = some false := by
  rw [List.getElem?_map, Option.map_eq_some_iff]

/-- No command but a NEW makes an invalid context valid. -/
theorem contextInvalid_of_exec {i : Instr} {s t : State} {n : ContextName} (h : exec i s = .next t) (hnew : i.isNew = false)
    (hs : ContextInvalid s n) : ContextInvalid t n := by
  obtain ⟨-, -, -, hkeep⟩ := validIsSetByNewOnly i s t h
  obtain ⟨hph, hpf, hpp⟩ := hkeep hnew
  cases n with
  | ph k => exact exists_valid_eq_false_iff.mpr (hph ▸ exists_valid_eq_false_iff.mp hs)
  | pf k => exact exists_valid_eq_false_iff.mpr (hpf ▸ exists_valid_eq_false_iff.mp hs)
  | pp k => exact exists_valid_eq_false_iff.mpr (hpp ▸ exists_valid_eq_false_iff.mp hs)

/-- Settles O16: an invalid context that is so no more was named by the command, and by a NEW. -/
theorem invalidContextRaisesInvalid : Obligations.InvalidContextRaisesInvalid := by
  refine ⟨fun _ _ _ hl hnew hi hn => exec_of_context_invalid hl hi hnew hn,
    fun _ _ h => cause_of_exec_failing .invalid h, fun i n s t h hs ht => ⟨?_, ?_⟩⟩
  · by_contra hnew
    exact ht (contextInvalid_of_exec h (Bool.eq_false_iff.mpr hnew) hs)
  · by_contra hi
    exact ht (contextInvalid_of_sameContext (otherContextsUntouched i s t n h hi) hs)

end Sys2Proof.Machine
end

section
/-! Two blocks that differ in the contents of invalid contexts only (R47, R291): a host cannot tell them apart by any input. -/

namespace Sys2Proof.Machine

/-! Files of contexts, position by position: `valid` is the VALID bit of the kind. -/

/-- The relation of `PhContext.Alike`, `PfContext.Alike` and `PpContext.Alike`, for any kind of context. -/
abbrev AlikeBy {γ : Type} (valid : γ → Bool) (c d : γ) : Prop := valid c = valid d ∧ (valid c = true → c = d)

section
variable {γ : Type} {valid : γ → Bool} {l l' : List γ}

theorem forall₂_alikeBy_refl (l : List γ) : List.Forall₂ (AlikeBy valid) l l :=
  List.forall₂_same.mpr fun _ _ => ⟨rfl, fun _ => rfl⟩

/-- What two alike files hold at an index: the same context or none, or contexts that are not valid. -/
theorem getElem?_of_alikeBy (h : List.Forall₂ (AlikeBy valid) l l') (n : Nat) :
    l[n]? = l'[n]? ∨ (∃ c, l[n]? = some c ∧ valid c = false) ∧ ∃ d, l'[n]? = some d ∧ valid d = false := by
  induction h generalizing n with
  | nil => exact .inl rfl
  | @cons c d _ _ hcd _ ih =>
    cases n with
    | succ n => exact ih n
    | zero =>
      obtain ⟨hvalid, heq⟩ := hcd
      cases hc : valid c with
      | true => exact .inl (congrArg some (heq hc))
      | false => exact .inr ⟨⟨c, rfl, hc⟩, d, rfl, hvalid.symm.trans hc⟩

/-- Writing one context at one index of alike files leaves alike files. -/
theorem forall₂_alikeBy_set (h : List.Forall₂ (AlikeBy valid) l l') (n : Nat) (d : γ) :
    List.Forall₂ (AlikeBy valid) (l.set n d) (l'.set n d) := by
  induction h generalizing n with
  | nil => exact .nil
  | cons hcd htail ih =>
    cases n with
    | zero => exact .cons ⟨rfl, fun _ => rfl⟩ htail
    | succ n => exact .cons hcd (ih n)

/-- Alike files put to one context everywhere are equal, for they have one length. -/
theorem map_const_of_alikeBy (h : List.Forall₂ (AlikeBy valid) l l') (c : γ) :
    (l.map fun _ => c) = l'.map fun _ => c := by
  rw [List.map_const', List.map_const', h.length_eq]

end

section
variable {s t : State} (h : s.Alike t)
include h

/-- Two alike states hold under each name the same context or none, or both one that is not valid. -/
theorem State.Alike.context (n : ContextName) : SameContext s t n ∨ ContextInvalid s n ∧ ContextInvalid t n := by
  obtain ⟨-, -, -, hph, hpf, hpp⟩ := h
  cases n with
  | ph i => exact getElem?_of_alikeBy hph i
  | pf j => exact getElem?_of_alikeBy hpf j
  | pp k => exact getElem?_of_alikeBy hpp k

theorem State.Alike.port_eq : s.port = t.port := by
  obtain ⟨-, hport, -⟩ := h
  exact hport

theorem State.Alike.setPort (es : List PortEvent) : State.Alike { s with port := es } { t with port := es } := by
  obtain ⟨hstatus, -, hrest⟩ := h
  exact ⟨hstatus, rfl, hrest⟩

theorem State.Alike.answering (ws : List Word) : (s.answering ws).Alike (t.answering ws) := by
  obtain ⟨hstatus, hport, hresponses, hfiles⟩ := h
  exact ⟨hstatus, hport, by rw [State.answering_responses, State.answering_responses, hresponses], hfiles⟩

theorem State.Alike.failing (e : Nat) : (s.failing e).Alike (t.failing e) := by
  obtain ⟨-, hport, hresponses, hfiles⟩ := h
  exact ⟨rfl, hport, by rw [State.failing_responses, State.failing_responses, hresponses], hfiles⟩

theorem State.Alike.setPh (n : Nat) (d : PhContext) : (s.setPh n d).Alike (t.setPh n d) := by
  obtain ⟨hstatus, hport, hresponses, hph, hrest⟩ := h
  exact ⟨hstatus, hport, hresponses, forall₂_alikeBy_set hph n d, hrest⟩

theorem State.Alike.setPf (n : Nat) (d : PfContext) : (s.setPf n d).Alike (t.setPf n d) := by
  obtain ⟨hstatus, hport, hresponses, hph, hpf, hpp⟩ := h
  exact ⟨hstatus, hport, hresponses, hph, forall₂_alikeBy_set hpf n d, hpp⟩

theorem State.Alike.setPp (n : Nat) (d : PpContext) : (s.setPp n d).Alike (t.setPp n d) := by
  obtain ⟨hstatus, hport, hresponses, hph, hpf, hpp⟩ := h
  exact ⟨hstatus, hport, hresponses, hph, hpf, forall₂_alikeBy_set hpp n d⟩

/-- A reset makes the files of alike states equal. -/
theorem State.Alike.applyReset : s.applyReset.Alike t.applyReset := by
  obtain ⟨-, hport, hresponses, hph, hpf, hpp⟩ := h
  refine ⟨rfl, hport, hresponses, ?_, ?_, ?_⟩
  · rw [State.applyReset_ph, State.applyReset_ph, map_const_of_alikeBy hph]
    exact forall₂_alikeBy_refl _
  · rw [State.applyReset_pf, State.applyReset_pf, map_const_of_alikeBy hpf]
    exact forall₂_alikeBy_refl _
  · rw [State.applyReset_pp, State.applyReset_pp, map_const_of_alikeBy hpp]
    exact forall₂_alikeBy_refl _

/-- One effect keeps two states alike. -/
theorem State.Alike.apply_effect {e : Effect} {s' : State} (hs : e.apply s = .next s') :
    ∃ t', e.apply t = .next t' ∧ s'.Alike t' := by
  cases e with
  | stop r => cases hs
  | fail e => cases hs; exact ⟨_, rfl, h.failing _⟩
  | answer ws => cases hs; exact ⟨_, rfl, h.answering ws⟩
  | writePh n d ws => cases hs; exact ⟨_, rfl, (h.setPh n d).answering ws⟩
  | writePf n d ws => cases hs; exact ⟨_, rfl, (h.setPf n d).answering ws⟩
  | writePp n d ws => cases hs; exact ⟨_, rfl, (h.setPp n d).answering ws⟩

end

end Sys2Proof.Machine
end

section
/-! A command has one effect on two alike states: the context it names is the same in both, or it refuses both, or it is a NEW, which does
not read the context it replaces. -/

namespace Sys2Proof.Machine

theorem ContextInvalid.contextExists {s : State} {n : ContextName} (h : ContextInvalid s n) : ContextExists s n := by
  cases n with
  | ph | pf | pp =>
    obtain ⟨c, hc, -⟩ := h
    exact (List.getElem?_eq_some_iff.mp hc).1

theorem widthLegal_of_isNew {i : Instr} (hnew : i.isNew = true) : i.WidthLegal := by
  cases i with cases hnew
  | pfNew | phNew | ppNew => exact nofun

/-- A NEW has one effect on all states where the context it names exists, whatever that context holds. -/
theorem exec_new_effect {i : Instr} {n : ContextName} (hnew : i.isNew = true) (hi : i.context = some n) :
    ∃ e : Effect, ∀ s, ContextExists s n → exec i s = e.apply s := by
  cases hd : i.inDomain with
  | false =>
    refine ⟨.fail .domain, fun s hs => exec_of_outside_domain (widthLegal_of_isNew hnew) (fun m hm => ?_) hd⟩
    rwa [← Option.some.inj (hi.symm.trans hm)]
  | true =>
    cases i with cases hi
    | pfNew ctx k kb => exact ⟨.writePf ctx _ _, fun s hs => execPfNew_of_lt hs k kb⟩
    | phNew ctx a b c =>
      obtain ⟨ha, hb, hc⟩ := of_decide_eq_true hd
      exact ⟨.writePh ctx _ _, fun s hs => execPhNew_of_inDomain hs ha hb hc⟩
    | ppNew ctx a b c k0 kb0 k1 kb1 =>
      obtain ⟨ha, hb, hc⟩ := of_decide_eq_true hd
      exact ⟨.writePp ctx _ _, fun s hs => execPpNew_of_inDomain hs ha hb hc k0 kb0 k1 kb1⟩
    | pfWrite | pfIsdone | pfFinish | phWrite | phFinish | ppWrite | ppFinish => cases hnew

/-- Where the context a command names is invalid in two states, its VALID check hides the contents, unless it is a NEW. -/
theorem exec_effect_of_contextInvalid {i : Instr} {n : ContextName} {s t : State} (hi : i.context = some n)
    (hs : ContextInvalid s n) (ht : ContextInvalid t n) : ∃ e : Effect, exec i s = e.apply s ∧ exec i t = e.apply t := by
  by_cases hl : i.WidthLegal
  · cases hnew : i.isNew with
    | true =>
      obtain ⟨e, he⟩ := exec_new_effect hnew hi
      exact ⟨e, he s hs.contextExists, he t ht.contextExists⟩
    | false =>
      exact ⟨.fail .invalid, exec_of_context_invalid hl hi hnew hs, exec_of_context_invalid hl hi hnew ht⟩
  · unfold Instr.WidthLegal at hl
    push Not at hl
    obtain ⟨l, hw, hillegal⟩ := hl
    have hbad : l = 0 ∨ i.maxWidth < l := by omega
    exact ⟨.fail .width, exec_of_width_illegal hw hbad, exec_of_width_illegal hw hbad⟩

theorem exec_effect_of_alike {s t : State} (h : s.Alike t) (i : Instr) :
    ∃ e : Effect, exec i s = e.apply s ∧ exec i t = e.apply t := by
  by_cases hview : ∀ n, i.context = some n → SameContext s t n
  · obtain ⟨hstatus, -⟩ := h
    obtain ⟨e, -, he⟩ := exec_acts i s
    exact ⟨e, he s (.refl i s), he t ⟨fun _ => hstatus, hview⟩⟩
  · push Not at hview
    obtain ⟨n, hi, hdiffers⟩ := hview
    obtain ⟨hs, ht⟩ := (h.context n).resolve_left hdiffers
    exact exec_effect_of_contextInvalid hi hs ht

theorem exec_alike {s t s' : State} (h : s.Alike t) {i : Instr} (hs : exec i s = .next s') :
    ∃ t', exec i t = .next t' ∧ s'.Alike t' := by
  obtain ⟨e, hes, het⟩ := exec_effect_of_alike h i
  obtain ⟨t', ht, halike⟩ := h.apply_effect (hes.symm.trans hs)
  exact ⟨t', het.trans ht, halike⟩

end Sys2Proof.Machine
end

section
/-! One step by the input it takes: none, a reset, a packet of a wrong length, and any of them from a valid state or from one of two
alike states. -/

namespace Sys2Proof

/-- E_LENGTH is the answer to the packets that match a row and have not its length (R88, R263). -/
theorem decode_eq_length {p : Packet} {r : Row} (hr : r ∈ commandTable) (hs : r.selects p.header = true)
    (hlen : p.payload.length ≠ r.payloadWords) : decode p = .error .length := by
  simp only [decode, (findRow_eq_some_iff _ r).mpr ⟨hr, hs⟩, if_neg hlen]

/-- A command's own packet names the row, and so the length, for every packet of that header. -/
theorem decode_eq_length_of_encode {i : Instr} (hi : i.WellFormed) {p : Packet} (hheader : p.header = (encode i).header)
    (hlen : p.payload.length ≠ i.payloadWords) : decode p = .error .length := by
  obtain ⟨r, hr, hselects, hwords, -⟩ := (decode_eq_ok_iff _ i).mp (decodeOfEncode i hi)
  rw [payload_encode_length] at hwords
  exact decode_eq_length hr (hheader ▸ hselects) (hwords ▸ hlen)

namespace Machine

theorem step_of_port_nil {s : State} (hport : s.port = []) : step s = .next s := by
  simp only [step, takeEvent, hport]

theorem step_of_port_reset {s : State} {rest : List PortEvent} (hport : s.port = .reset :: rest) :
    step s = .next { s with port := rest }.applyReset := by
  simp only [step, takeEvent, hport]

/-- Settles O10: there is no input to take. -/
theorem idleBlockHoldsState : Obligations.IdleBlockHoldsState := fun _ hport => step_of_port_nil hport

theorem valid_of_mem_map_const {γ δ : Type} {valid : δ → Bool} {c : δ} (hc : valid c = false) {file : List γ} :
    ∀ d ∈ file.map fun _ => c, valid d = false := by
  rw [List.map_const']
  exact valid_of_mem_replicate hc

theorem word_cleared : Status.cleared.word = 0#32 := by decide

/-- Settles O11: each file repeats, at its length, the one context that reset makes. -/
theorem resetInputClears : Obligations.ResetInputClears := by
  intro s rest hport
  exact ⟨_, step_of_port_reset hport, word_cleared, valid_of_mem_map_const (valid := PhContext.valid) rfl,
    valid_of_mem_map_const (valid := PfContext.valid) rfl, valid_of_mem_map_const (valid := PpContext.valid) rfl,
    List.length_map _, List.length_map _, List.length_map _, rfl, rfl⟩

/-- Settles O9: the header is that of a row, so the decoder's refusal is of the length. -/
theorem wrongLengthRaisesLength : Obligations.WrongLengthRaisesLength :=
  fun _ _ _ _ hport hi hheader hlen => step_of_decode_error hport (decode_eq_length_of_encode hi hheader hlen)

/-- Settles O57: what a step does not run as a command, it answers at once. -/
theorem validStateAlwaysAnswers : Obligations.ValidStateAlwaysAnswers := by
  intro s hs
  obtain ⟨-, hstep⟩ | ⟨rest, -, hstep⟩ | ⟨p, rest, -, ⟨i, -, hstep⟩ | ⟨e, -, hstep⟩⟩ := step_cases s
  · exact ⟨_, hstep⟩
  · exact ⟨_, hstep⟩
  · obtain ⟨t, ht⟩ := exec_answers (hs.setPort rest) i
    exact ⟨t, hstep.trans ht⟩
  · exact ⟨_, hstep.trans (raise_eq e _)⟩

/-- Settles O59: two alike states have the same input pending, and each kind of input keeps them alike. -/
theorem unspecifiedContentsUnobservable : Obligations.UnspecifiedContentsUnobservable := by
  intro s t s' h hs
  obtain ⟨hport, hstep⟩ | ⟨rest, hport, hstep⟩ | ⟨p, rest, hport, ⟨i, hp, hstep⟩ | ⟨e, hp, hstep⟩⟩ := step_cases s <;>
    rw [hstep] at hs <;> rw [h.port_eq] at hport
  · cases hs
    exact ⟨t, step_of_port_nil hport, h⟩
  · cases hs
    exact ⟨_, step_of_port_reset hport, (h.setPort rest).applyReset⟩
  · rw [step_of_decode_ok hport hp]
    exact exec_alike (h.setPort rest) hs
  · rw [raise_eq] at hs
    cases hs
    exact ⟨_, step_of_decode_error hport hp, (h.setPort rest).failing _⟩

end Machine

end Sys2Proof
end
